-- ==== Sys2Proof/Word.lean ====
section
/-! DEFINITION. The machine's two word types and the logic level of a line (00_scope.md R4, R6). -/

namespace Sys2Proof

/-- A byte: every register but PC, and every memory cell (00_scope.md R4). -/
abbrev Byte := BitVec 8

/-- A 16-bit address or the program counter (00_scope.md R4). -/
abbrev Word := BitVec 16

/-- The logic level of a line, L or H (00_scope.md R9). -/
inductive Level where
  | low
  | high
  deriving DecidableEq, Repr

end Sys2Proof
end

