-- ==== Sys2Proof/Machine/Bits.lean ====
section
/-! DEFINITION. Bit fields, extension and byte order (00_scope.md R6, R7; 20_memory.md R43). -/

namespace Sys2Proof

/-- `zext_16` of 00_scope.md R7. -/
def zext (b : Byte) : Word := b.setWidth 16

/-- `sext_16` of 00_scope.md R7. -/
def sext (b : Byte) : Word := b.signExtend 16

/-- `hi:lo`, the concatenation of two bytes (00_scope.md R6). -/
def wordOf (hi lo : Byte) : Word := hi ++ lo

/-- `v[15:8]` (00_scope.md R6). -/
def hiByte (w : Word) : Byte := w.extractLsb' 8 8

/-- `v[7:0]` (00_scope.md R6). -/
def loByte (w : Word) : Byte := w.extractLsb' 0 8

/-- `v[i]`, one bit of a byte (00_scope.md R6). -/
def bit (b : Byte) (i : Nat) : Bool := b.getLsbD i

/-- The byte with bit `i` equal to `x` and every other bit 0. -/
def bitAt (x : Bool) (i : Nat) : Byte := if x then 1#8 <<< i else 0#8

end Sys2Proof
end

