-- ==== Sys2Proof/Syntax.lean ====
section
/-! DEFINITION. The instructions: one constructor per row of spec/opcode_table.json, named after the row's
mnemonic and, where the mnemonic has several rows, its format (30_encoding.md R71, R72, R82). -/

namespace Sys2Proof

/-- The formats of 30_encoding.md R71. -/
inductive Format where
  | imp
  | acc
  | imm
  | zp
  | zpx
  | zpy
  | rel
  | izx
  | izy
  | izp
  | abs
  | abx
  | aby
  | ind
  | iax
  deriving DecidableEq, Repr

/-- The length of a format in bytes (30_encoding.md R71). -/
def Format.length : Format → Nat
  | .imp => 1
  | .acc => 1
  | .imm => 2
  | .zp => 2
  | .zpx => 2
  | .zpy => 2
  | .rel => 2
  | .izx => 2
  | .izy => 2
  | .izp => 2
  | .abs => 3
  | .abx => 3
  | .aby => 3
  | .ind => 3
  | .iax => 3

/-- An instruction. Operands as 30_encoding.md R83 has them: `n` an immediate or an address in page 0,
`a` the offset of a branch, `nn` a 16-bit address. -/
inductive Instr where
  -- Loads and stores (41_load_store_transfer.md R121 to R127).
  | ldaImm (n : Byte)
  | ldaZp (n : Byte)
  | ldaZpx (n : Byte)
  | ldaAbs (nn : Word)
  | ldaAbx (nn : Word)
  | ldaAby (nn : Word)
  | ldaIzx (n : Byte)
  | ldaIzy (n : Byte)
  | ldaIzp (n : Byte)
  | ldxImm (n : Byte)
  | ldxZp (n : Byte)
  | ldxZpy (n : Byte)
  | ldxAbs (nn : Word)
  | ldxAby (nn : Word)
  | ldyImm (n : Byte)
  | ldyZp (n : Byte)
  | ldyZpx (n : Byte)
  | ldyAbs (nn : Word)
  | ldyAbx (nn : Word)
  | staZp (n : Byte)
  | staZpx (n : Byte)
  | staAbs (nn : Word)
  | staAbx (nn : Word)
  | staAby (nn : Word)
  | staIzx (n : Byte)
  | staIzy (n : Byte)
  | staIzp (n : Byte)
  | stxZp (n : Byte)
  | stxZpy (n : Byte)
  | stxAbs (nn : Word)
  | styZp (n : Byte)
  | styZpx (n : Byte)
  | styAbs (nn : Word)
  | stzZp (n : Byte)
  | stzZpx (n : Byte)
  | stzAbs (nn : Word)
  | stzAbx (nn : Word)
  -- Transfers (41_load_store_transfer.md R128 to R133).
  | tax
  | tay
  | tsx
  | txa
  | txs
  | tya
  -- Arithmetic and logic (42_arithmetic_logic.md R151 to R157).
  | adcImm (n : Byte)
  | adcZp (n : Byte)
  | adcZpx (n : Byte)
  | adcAbs (nn : Word)
  | adcAbx (nn : Word)
  | adcAby (nn : Word)
  | adcIzx (n : Byte)
  | adcIzy (n : Byte)
  | adcIzp (n : Byte)
  | sbcImm (n : Byte)
  | sbcZp (n : Byte)
  | sbcZpx (n : Byte)
  | sbcAbs (nn : Word)
  | sbcAbx (nn : Word)
  | sbcAby (nn : Word)
  | sbcIzx (n : Byte)
  | sbcIzy (n : Byte)
  | sbcIzp (n : Byte)
  | andImm (n : Byte)
  | andZp (n : Byte)
  | andZpx (n : Byte)
  | andAbs (nn : Word)
  | andAbx (nn : Word)
  | andAby (nn : Word)
  | andIzx (n : Byte)
  | andIzy (n : Byte)
  | andIzp (n : Byte)
  | oraImm (n : Byte)
  | oraZp (n : Byte)
  | oraZpx (n : Byte)
  | oraAbs (nn : Word)
  | oraAbx (nn : Word)
  | oraAby (nn : Word)
  | oraIzx (n : Byte)
  | oraIzy (n : Byte)
  | oraIzp (n : Byte)
  | eorImm (n : Byte)
  | eorZp (n : Byte)
  | eorZpx (n : Byte)
  | eorAbs (nn : Word)
  | eorAbx (nn : Word)
  | eorAby (nn : Word)
  | eorIzx (n : Byte)
  | eorIzy (n : Byte)
  | eorIzp (n : Byte)
  -- Compares and bit tests (42_arithmetic_logic.md R158 to R167).
  | cmpImm (n : Byte)
  | cmpZp (n : Byte)
  | cmpZpx (n : Byte)
  | cmpAbs (nn : Word)
  | cmpAbx (nn : Word)
  | cmpAby (nn : Word)
  | cmpIzx (n : Byte)
  | cmpIzy (n : Byte)
  | cmpIzp (n : Byte)
  | cpxImm (n : Byte)
  | cpxZp (n : Byte)
  | cpxAbs (nn : Word)
  | cpyImm (n : Byte)
  | cpyZp (n : Byte)
  | cpyAbs (nn : Word)
  | bitZp (n : Byte)
  | bitAbs (nn : Word)
  | tsbZp (n : Byte)
  | tsbAbs (nn : Word)
  | trbZp (n : Byte)
  | trbAbs (nn : Word)
  -- Shifts and rotates (43_shift_incdec.md R181 to R188).
  | aslZp (n : Byte)
  | aslZpx (n : Byte)
  | aslAbs (nn : Word)
  | aslAbx (nn : Word)
  | asla
  | lsrZp (n : Byte)
  | lsrZpx (n : Byte)
  | lsrAbs (nn : Word)
  | lsrAbx (nn : Word)
  | lsra
  | rolZp (n : Byte)
  | rolZpx (n : Byte)
  | rolAbs (nn : Word)
  | rolAbx (nn : Word)
  | rola
  | rorZp (n : Byte)
  | rorZpx (n : Byte)
  | rorAbs (nn : Word)
  | rorAbx (nn : Word)
  | rora
  -- Increments and decrements (43_shift_incdec.md R189 to R196).
  | incZp (n : Byte)
  | incZpx (n : Byte)
  | incAbs (nn : Word)
  | incAbx (nn : Word)
  | decZp (n : Byte)
  | decZpx (n : Byte)
  | decAbs (nn : Word)
  | decAbx (nn : Word)
  | ina
  | dea
  | inx
  | iny
  | dex
  | dey
  -- Branches, jumps, subroutines (44_branch_jump.md R211 to R225).
  | bcc (a : Byte)
  | bcs (a : Byte)
  | beq (a : Byte)
  | bmi (a : Byte)
  | bne (a : Byte)
  | bpl (a : Byte)
  | bvc (a : Byte)
  | bvs (a : Byte)
  | bra (a : Byte)
  | jmpAbs (nn : Word)
  | jmpInd (nn : Word)
  | jmpIax (nn : Word)
  | jsr (nn : Word)
  | rts
  -- Stack, flags and system (45_stack_flag_system.md R231 to R248).
  | pha
  | php
  | phx
  | phy
  | pla
  | plp
  | plx
  | ply
  | clc
  | cld
  | cli
  | clv
  | sec
  | sed
  | sei
  | nop
  | brk
  | rti
  deriving DecidableEq, Repr

/-- The mnemonic, as spec/opcode_table.json has it (30_encoding.md R72, R75). -/
def Instr.mnemonic : Instr → String
  | .ldaImm _ => "LDA"
  | .ldaZp _ => "LDA"
  | .ldaZpx _ => "LDA"
  | .ldaAbs _ => "LDA"
  | .ldaAbx _ => "LDA"
  | .ldaAby _ => "LDA"
  | .ldaIzx _ => "LDA"
  | .ldaIzy _ => "LDA"
  | .ldaIzp _ => "LDA"
  | .ldxImm _ => "LDX"
  | .ldxZp _ => "LDX"
  | .ldxZpy _ => "LDX"
  | .ldxAbs _ => "LDX"
  | .ldxAby _ => "LDX"
  | .ldyImm _ => "LDY"
  | .ldyZp _ => "LDY"
  | .ldyZpx _ => "LDY"
  | .ldyAbs _ => "LDY"
  | .ldyAbx _ => "LDY"
  | .staZp _ => "STA"
  | .staZpx _ => "STA"
  | .staAbs _ => "STA"
  | .staAbx _ => "STA"
  | .staAby _ => "STA"
  | .staIzx _ => "STA"
  | .staIzy _ => "STA"
  | .staIzp _ => "STA"
  | .stxZp _ => "STX"
  | .stxZpy _ => "STX"
  | .stxAbs _ => "STX"
  | .styZp _ => "STY"
  | .styZpx _ => "STY"
  | .styAbs _ => "STY"
  | .stzZp _ => "STZ"
  | .stzZpx _ => "STZ"
  | .stzAbs _ => "STZ"
  | .stzAbx _ => "STZ"
  | .tax => "TAX"
  | .tay => "TAY"
  | .tsx => "TSX"
  | .txa => "TXA"
  | .txs => "TXS"
  | .tya => "TYA"
  | .adcImm _ => "ADC"
  | .adcZp _ => "ADC"
  | .adcZpx _ => "ADC"
  | .adcAbs _ => "ADC"
  | .adcAbx _ => "ADC"
  | .adcAby _ => "ADC"
  | .adcIzx _ => "ADC"
  | .adcIzy _ => "ADC"
  | .adcIzp _ => "ADC"
  | .sbcImm _ => "SBC"
  | .sbcZp _ => "SBC"
  | .sbcZpx _ => "SBC"
  | .sbcAbs _ => "SBC"
  | .sbcAbx _ => "SBC"
  | .sbcAby _ => "SBC"
  | .sbcIzx _ => "SBC"
  | .sbcIzy _ => "SBC"
  | .sbcIzp _ => "SBC"
  | .andImm _ => "AND"
  | .andZp _ => "AND"
  | .andZpx _ => "AND"
  | .andAbs _ => "AND"
  | .andAbx _ => "AND"
  | .andAby _ => "AND"
  | .andIzx _ => "AND"
  | .andIzy _ => "AND"
  | .andIzp _ => "AND"
  | .oraImm _ => "ORA"
  | .oraZp _ => "ORA"
  | .oraZpx _ => "ORA"
  | .oraAbs _ => "ORA"
  | .oraAbx _ => "ORA"
  | .oraAby _ => "ORA"
  | .oraIzx _ => "ORA"
  | .oraIzy _ => "ORA"
  | .oraIzp _ => "ORA"
  | .eorImm _ => "EOR"
  | .eorZp _ => "EOR"
  | .eorZpx _ => "EOR"
  | .eorAbs _ => "EOR"
  | .eorAbx _ => "EOR"
  | .eorAby _ => "EOR"
  | .eorIzx _ => "EOR"
  | .eorIzy _ => "EOR"
  | .eorIzp _ => "EOR"
  | .cmpImm _ => "CMP"
  | .cmpZp _ => "CMP"
  | .cmpZpx _ => "CMP"
  | .cmpAbs _ => "CMP"
  | .cmpAbx _ => "CMP"
  | .cmpAby _ => "CMP"
  | .cmpIzx _ => "CMP"
  | .cmpIzy _ => "CMP"
  | .cmpIzp _ => "CMP"
  | .cpxImm _ => "CPX"
  | .cpxZp _ => "CPX"
  | .cpxAbs _ => "CPX"
  | .cpyImm _ => "CPY"
  | .cpyZp _ => "CPY"
  | .cpyAbs _ => "CPY"
  | .bitZp _ => "BIT"
  | .bitAbs _ => "BIT"
  | .tsbZp _ => "TSB"
  | .tsbAbs _ => "TSB"
  | .trbZp _ => "TRB"
  | .trbAbs _ => "TRB"
  | .aslZp _ => "ASL"
  | .aslZpx _ => "ASL"
  | .aslAbs _ => "ASL"
  | .aslAbx _ => "ASL"
  | .asla => "ASLA"
  | .lsrZp _ => "LSR"
  | .lsrZpx _ => "LSR"
  | .lsrAbs _ => "LSR"
  | .lsrAbx _ => "LSR"
  | .lsra => "LSRA"
  | .rolZp _ => "ROL"
  | .rolZpx _ => "ROL"
  | .rolAbs _ => "ROL"
  | .rolAbx _ => "ROL"
  | .rola => "ROLA"
  | .rorZp _ => "ROR"
  | .rorZpx _ => "ROR"
  | .rorAbs _ => "ROR"
  | .rorAbx _ => "ROR"
  | .rora => "RORA"
  | .incZp _ => "INC"
  | .incZpx _ => "INC"
  | .incAbs _ => "INC"
  | .incAbx _ => "INC"
  | .decZp _ => "DEC"
  | .decZpx _ => "DEC"
  | .decAbs _ => "DEC"
  | .decAbx _ => "DEC"
  | .ina => "INA"
  | .dea => "DEA"
  | .inx => "INX"
  | .iny => "INY"
  | .dex => "DEX"
  | .dey => "DEY"
  | .bcc _ => "BCC"
  | .bcs _ => "BCS"
  | .beq _ => "BEQ"
  | .bmi _ => "BMI"
  | .bne _ => "BNE"
  | .bpl _ => "BPL"
  | .bvc _ => "BVC"
  | .bvs _ => "BVS"
  | .bra _ => "BRA"
  | .jmpAbs _ => "JMP"
  | .jmpInd _ => "JMP"
  | .jmpIax _ => "JMP"
  | .jsr _ => "JSR"
  | .rts => "RTS"
  | .pha => "PHA"
  | .php => "PHP"
  | .phx => "PHX"
  | .phy => "PHY"
  | .pla => "PLA"
  | .plp => "PLP"
  | .plx => "PLX"
  | .ply => "PLY"
  | .clc => "CLC"
  | .cld => "CLD"
  | .cli => "CLI"
  | .clv => "CLV"
  | .sec => "SEC"
  | .sed => "SED"
  | .sei => "SEI"
  | .nop => "NOP"
  | .brk => "BRK"
  | .rti => "RTI"

/-- The format (30_encoding.md R71, R82). -/
def Instr.format : Instr → Format
  | .ldaImm _ => .imm
  | .ldaZp _ => .zp
  | .ldaZpx _ => .zpx
  | .ldaAbs _ => .abs
  | .ldaAbx _ => .abx
  | .ldaAby _ => .aby
  | .ldaIzx _ => .izx
  | .ldaIzy _ => .izy
  | .ldaIzp _ => .izp
  | .ldxImm _ => .imm
  | .ldxZp _ => .zp
  | .ldxZpy _ => .zpy
  | .ldxAbs _ => .abs
  | .ldxAby _ => .aby
  | .ldyImm _ => .imm
  | .ldyZp _ => .zp
  | .ldyZpx _ => .zpx
  | .ldyAbs _ => .abs
  | .ldyAbx _ => .abx
  | .staZp _ => .zp
  | .staZpx _ => .zpx
  | .staAbs _ => .abs
  | .staAbx _ => .abx
  | .staAby _ => .aby
  | .staIzx _ => .izx
  | .staIzy _ => .izy
  | .staIzp _ => .izp
  | .stxZp _ => .zp
  | .stxZpy _ => .zpy
  | .stxAbs _ => .abs
  | .styZp _ => .zp
  | .styZpx _ => .zpx
  | .styAbs _ => .abs
  | .stzZp _ => .zp
  | .stzZpx _ => .zpx
  | .stzAbs _ => .abs
  | .stzAbx _ => .abx
  | .tax => .imp
  | .tay => .imp
  | .tsx => .imp
  | .txa => .imp
  | .txs => .imp
  | .tya => .imp
  | .adcImm _ => .imm
  | .adcZp _ => .zp
  | .adcZpx _ => .zpx
  | .adcAbs _ => .abs
  | .adcAbx _ => .abx
  | .adcAby _ => .aby
  | .adcIzx _ => .izx
  | .adcIzy _ => .izy
  | .adcIzp _ => .izp
  | .sbcImm _ => .imm
  | .sbcZp _ => .zp
  | .sbcZpx _ => .zpx
  | .sbcAbs _ => .abs
  | .sbcAbx _ => .abx
  | .sbcAby _ => .aby
  | .sbcIzx _ => .izx
  | .sbcIzy _ => .izy
  | .sbcIzp _ => .izp
  | .andImm _ => .imm
  | .andZp _ => .zp
  | .andZpx _ => .zpx
  | .andAbs _ => .abs
  | .andAbx _ => .abx
  | .andAby _ => .aby
  | .andIzx _ => .izx
  | .andIzy _ => .izy
  | .andIzp _ => .izp
  | .oraImm _ => .imm
  | .oraZp _ => .zp
  | .oraZpx _ => .zpx
  | .oraAbs _ => .abs
  | .oraAbx _ => .abx
  | .oraAby _ => .aby
  | .oraIzx _ => .izx
  | .oraIzy _ => .izy
  | .oraIzp _ => .izp
  | .eorImm _ => .imm
  | .eorZp _ => .zp
  | .eorZpx _ => .zpx
  | .eorAbs _ => .abs
  | .eorAbx _ => .abx
  | .eorAby _ => .aby
  | .eorIzx _ => .izx
  | .eorIzy _ => .izy
  | .eorIzp _ => .izp
  | .cmpImm _ => .imm
  | .cmpZp _ => .zp
  | .cmpZpx _ => .zpx
  | .cmpAbs _ => .abs
  | .cmpAbx _ => .abx
  | .cmpAby _ => .aby
  | .cmpIzx _ => .izx
  | .cmpIzy _ => .izy
  | .cmpIzp _ => .izp
  | .cpxImm _ => .imm
  | .cpxZp _ => .zp
  | .cpxAbs _ => .abs
  | .cpyImm _ => .imm
  | .cpyZp _ => .zp
  | .cpyAbs _ => .abs
  | .bitZp _ => .zp
  | .bitAbs _ => .abs
  | .tsbZp _ => .zp
  | .tsbAbs _ => .abs
  | .trbZp _ => .zp
  | .trbAbs _ => .abs
  | .aslZp _ => .zp
  | .aslZpx _ => .zpx
  | .aslAbs _ => .abs
  | .aslAbx _ => .abx
  | .asla => .acc
  | .lsrZp _ => .zp
  | .lsrZpx _ => .zpx
  | .lsrAbs _ => .abs
  | .lsrAbx _ => .abx
  | .lsra => .acc
  | .rolZp _ => .zp
  | .rolZpx _ => .zpx
  | .rolAbs _ => .abs
  | .rolAbx _ => .abx
  | .rola => .acc
  | .rorZp _ => .zp
  | .rorZpx _ => .zpx
  | .rorAbs _ => .abs
  | .rorAbx _ => .abx
  | .rora => .acc
  | .incZp _ => .zp
  | .incZpx _ => .zpx
  | .incAbs _ => .abs
  | .incAbx _ => .abx
  | .decZp _ => .zp
  | .decZpx _ => .zpx
  | .decAbs _ => .abs
  | .decAbx _ => .abx
  | .ina => .acc
  | .dea => .acc
  | .inx => .imp
  | .iny => .imp
  | .dex => .imp
  | .dey => .imp
  | .bcc _ => .rel
  | .bcs _ => .rel
  | .beq _ => .rel
  | .bmi _ => .rel
  | .bne _ => .rel
  | .bpl _ => .rel
  | .bvc _ => .rel
  | .bvs _ => .rel
  | .bra _ => .rel
  | .jmpAbs _ => .abs
  | .jmpInd _ => .ind
  | .jmpIax _ => .iax
  | .jsr _ => .abs
  | .rts => .imp
  | .pha => .imp
  | .php => .imp
  | .phx => .imp
  | .phy => .imp
  | .pla => .imp
  | .plp => .imp
  | .plx => .imp
  | .ply => .imp
  | .clc => .imp
  | .cld => .imp
  | .cli => .imp
  | .clv => .imp
  | .sec => .imp
  | .sed => .imp
  | .sei => .imp
  | .nop => .imp
  | .brk => .imp
  | .rti => .imp

/-- The length in bytes (30_encoding.md R70). -/
def Instr.length (i : Instr) : Nat := i.format.length

end Sys2Proof
end

