-- ==== Sys2Proof/Decode.lean ====
section
/-! DEFINITION. The opcode map of 30_encoding.md R82, the decoder, and after it the encoder. -/

namespace Sys2Proof

/-- How an opcode builds its instruction from the bytes that follow it (30_encoding.md R71, R83). -/
inductive Build where
  | one (i : Instr)
  | two (f : Byte → Instr)
  | three (f : Word → Instr)

/-- One cell of the opcode map. -/
structure OpRow where
  op : Byte
  build : Build

/-- Why bytes are no instruction. -/
inductive DecodeReject where
  /-- One of the 81 opcodes the spec gives no meaning (30_encoding.md R86). -/
  | undocumented (op : Byte)
  /-- The bytes end before the instruction does. -/
  | truncated
  deriving DecidableEq, Repr

/-- Operand bytes: one byte as it is, two bytes low byte first (30_encoding.md R83). -/
def Build.apply (b : Build) (rest : List Byte) : Except DecodeReject (Instr × List Byte) :=
  match b, rest with
  | .one i, r => .ok (i, r)
  | .two f, n :: r => .ok (f n, r)
  | .two _, [] => .error .truncated
  | .three f, lo :: hi :: r => .ok (f (wordOf hi lo), r)
  | .three _, [_] => .error .truncated
  | .three _, [] => .error .truncated

/-- The length of the instruction an opcode starts (30_encoding.md R70). -/
def Build.length : Build → Nat
  | .one _ => 1
  | .two _ => 2
  | .three _ => 3

/-- Row 0x of the opcode map (30_encoding.md R82). -/
def rows0 : List OpRow := [
  ⟨0x00#8, .one .brk⟩,
  ⟨0x01#8, .two .oraIzx⟩,
  ⟨0x04#8, .two .tsbZp⟩,
  ⟨0x05#8, .two .oraZp⟩,
  ⟨0x06#8, .two .aslZp⟩,
  ⟨0x08#8, .one .php⟩,
  ⟨0x09#8, .two .oraImm⟩,
  ⟨0x0A#8, .one .asla⟩,
  ⟨0x0C#8, .three .tsbAbs⟩,
  ⟨0x0D#8, .three .oraAbs⟩,
  ⟨0x0E#8, .three .aslAbs⟩]

/-- Row 1x of the opcode map (30_encoding.md R82). -/
def rows1 : List OpRow := [
  ⟨0x10#8, .two .bpl⟩,
  ⟨0x11#8, .two .oraIzy⟩,
  ⟨0x12#8, .two .oraIzp⟩,
  ⟨0x14#8, .two .trbZp⟩,
  ⟨0x15#8, .two .oraZpx⟩,
  ⟨0x16#8, .two .aslZpx⟩,
  ⟨0x18#8, .one .clc⟩,
  ⟨0x19#8, .three .oraAby⟩,
  ⟨0x1A#8, .one .ina⟩,
  ⟨0x1C#8, .three .trbAbs⟩,
  ⟨0x1D#8, .three .oraAbx⟩,
  ⟨0x1E#8, .three .aslAbx⟩]

/-- Row 2x of the opcode map (30_encoding.md R82). -/
def rows2 : List OpRow := [
  ⟨0x20#8, .three .jsr⟩,
  ⟨0x21#8, .two .andIzx⟩,
  ⟨0x24#8, .two .bitZp⟩,
  ⟨0x25#8, .two .andZp⟩,
  ⟨0x26#8, .two .rolZp⟩,
  ⟨0x28#8, .one .plp⟩,
  ⟨0x29#8, .two .andImm⟩,
  ⟨0x2A#8, .one .rola⟩,
  ⟨0x2C#8, .three .bitAbs⟩,
  ⟨0x2D#8, .three .andAbs⟩,
  ⟨0x2E#8, .three .rolAbs⟩]

/-- Row 3x of the opcode map (30_encoding.md R82). -/
def rows3 : List OpRow := [
  ⟨0x30#8, .two .bmi⟩,
  ⟨0x31#8, .two .andIzy⟩,
  ⟨0x32#8, .two .andIzp⟩,
  ⟨0x35#8, .two .andZpx⟩,
  ⟨0x36#8, .two .rolZpx⟩,
  ⟨0x38#8, .one .sec⟩,
  ⟨0x39#8, .three .andAby⟩,
  ⟨0x3A#8, .one .dea⟩,
  ⟨0x3D#8, .three .andAbx⟩,
  ⟨0x3E#8, .three .rolAbx⟩]

/-- Row 4x of the opcode map (30_encoding.md R82). -/
def rows4 : List OpRow := [
  ⟨0x40#8, .one .rti⟩,
  ⟨0x41#8, .two .eorIzx⟩,
  ⟨0x45#8, .two .eorZp⟩,
  ⟨0x46#8, .two .lsrZp⟩,
  ⟨0x48#8, .one .pha⟩,
  ⟨0x49#8, .two .eorImm⟩,
  ⟨0x4A#8, .one .lsra⟩,
  ⟨0x4C#8, .three .jmpAbs⟩,
  ⟨0x4D#8, .three .eorAbs⟩,
  ⟨0x4E#8, .three .lsrAbs⟩]

/-- Row 5x of the opcode map (30_encoding.md R82). -/
def rows5 : List OpRow := [
  ⟨0x50#8, .two .bvc⟩,
  ⟨0x51#8, .two .eorIzy⟩,
  ⟨0x52#8, .two .eorIzp⟩,
  ⟨0x55#8, .two .eorZpx⟩,
  ⟨0x56#8, .two .lsrZpx⟩,
  ⟨0x58#8, .one .cli⟩,
  ⟨0x59#8, .three .eorAby⟩,
  ⟨0x5A#8, .one .phy⟩,
  ⟨0x5D#8, .three .eorAbx⟩,
  ⟨0x5E#8, .three .lsrAbx⟩]

/-- Row 6x of the opcode map (30_encoding.md R82). -/
def rows6 : List OpRow := [
  ⟨0x60#8, .one .rts⟩,
  ⟨0x61#8, .two .adcIzx⟩,
  ⟨0x64#8, .two .stzZp⟩,
  ⟨0x65#8, .two .adcZp⟩,
  ⟨0x66#8, .two .rorZp⟩,
  ⟨0x68#8, .one .pla⟩,
  ⟨0x69#8, .two .adcImm⟩,
  ⟨0x6A#8, .one .rora⟩,
  ⟨0x6C#8, .three .jmpInd⟩,
  ⟨0x6D#8, .three .adcAbs⟩,
  ⟨0x6E#8, .three .rorAbs⟩]

/-- Row 7x of the opcode map (30_encoding.md R82). -/
def rows7 : List OpRow := [
  ⟨0x70#8, .two .bvs⟩,
  ⟨0x71#8, .two .adcIzy⟩,
  ⟨0x72#8, .two .adcIzp⟩,
  ⟨0x74#8, .two .stzZpx⟩,
  ⟨0x75#8, .two .adcZpx⟩,
  ⟨0x76#8, .two .rorZpx⟩,
  ⟨0x78#8, .one .sei⟩,
  ⟨0x79#8, .three .adcAby⟩,
  ⟨0x7A#8, .one .ply⟩,
  ⟨0x7C#8, .three .jmpIax⟩,
  ⟨0x7D#8, .three .adcAbx⟩,
  ⟨0x7E#8, .three .rorAbx⟩]

/-- Row 8x of the opcode map (30_encoding.md R82). -/
def rows8 : List OpRow := [
  ⟨0x80#8, .two .bra⟩,
  ⟨0x81#8, .two .staIzx⟩,
  ⟨0x84#8, .two .styZp⟩,
  ⟨0x85#8, .two .staZp⟩,
  ⟨0x86#8, .two .stxZp⟩,
  ⟨0x88#8, .one .dey⟩,
  ⟨0x8A#8, .one .txa⟩,
  ⟨0x8C#8, .three .styAbs⟩,
  ⟨0x8D#8, .three .staAbs⟩,
  ⟨0x8E#8, .three .stxAbs⟩]

/-- Row 9x of the opcode map (30_encoding.md R82). -/
def rows9 : List OpRow := [
  ⟨0x90#8, .two .bcc⟩,
  ⟨0x91#8, .two .staIzy⟩,
  ⟨0x92#8, .two .staIzp⟩,
  ⟨0x94#8, .two .styZpx⟩,
  ⟨0x95#8, .two .staZpx⟩,
  ⟨0x96#8, .two .stxZpy⟩,
  ⟨0x98#8, .one .tya⟩,
  ⟨0x99#8, .three .staAby⟩,
  ⟨0x9A#8, .one .txs⟩,
  ⟨0x9C#8, .three .stzAbs⟩,
  ⟨0x9D#8, .three .staAbx⟩,
  ⟨0x9E#8, .three .stzAbx⟩]

/-- Row Ax of the opcode map (30_encoding.md R82). -/
def rowsA : List OpRow := [
  ⟨0xA0#8, .two .ldyImm⟩,
  ⟨0xA1#8, .two .ldaIzx⟩,
  ⟨0xA2#8, .two .ldxImm⟩,
  ⟨0xA4#8, .two .ldyZp⟩,
  ⟨0xA5#8, .two .ldaZp⟩,
  ⟨0xA6#8, .two .ldxZp⟩,
  ⟨0xA8#8, .one .tay⟩,
  ⟨0xA9#8, .two .ldaImm⟩,
  ⟨0xAA#8, .one .tax⟩,
  ⟨0xAC#8, .three .ldyAbs⟩,
  ⟨0xAD#8, .three .ldaAbs⟩,
  ⟨0xAE#8, .three .ldxAbs⟩]

/-- Row Bx of the opcode map (30_encoding.md R82). -/
def rowsB : List OpRow := [
  ⟨0xB0#8, .two .bcs⟩,
  ⟨0xB1#8, .two .ldaIzy⟩,
  ⟨0xB2#8, .two .ldaIzp⟩,
  ⟨0xB4#8, .two .ldyZpx⟩,
  ⟨0xB5#8, .two .ldaZpx⟩,
  ⟨0xB6#8, .two .ldxZpy⟩,
  ⟨0xB8#8, .one .clv⟩,
  ⟨0xB9#8, .three .ldaAby⟩,
  ⟨0xBA#8, .one .tsx⟩,
  ⟨0xBC#8, .three .ldyAbx⟩,
  ⟨0xBD#8, .three .ldaAbx⟩,
  ⟨0xBE#8, .three .ldxAby⟩]

/-- Row Cx of the opcode map (30_encoding.md R82). -/
def rowsC : List OpRow := [
  ⟨0xC0#8, .two .cpyImm⟩,
  ⟨0xC1#8, .two .cmpIzx⟩,
  ⟨0xC4#8, .two .cpyZp⟩,
  ⟨0xC5#8, .two .cmpZp⟩,
  ⟨0xC6#8, .two .decZp⟩,
  ⟨0xC8#8, .one .iny⟩,
  ⟨0xC9#8, .two .cmpImm⟩,
  ⟨0xCA#8, .one .dex⟩,
  ⟨0xCC#8, .three .cpyAbs⟩,
  ⟨0xCD#8, .three .cmpAbs⟩,
  ⟨0xCE#8, .three .decAbs⟩]

/-- Row Dx of the opcode map (30_encoding.md R82). -/
def rowsD : List OpRow := [
  ⟨0xD0#8, .two .bne⟩,
  ⟨0xD1#8, .two .cmpIzy⟩,
  ⟨0xD2#8, .two .cmpIzp⟩,
  ⟨0xD5#8, .two .cmpZpx⟩,
  ⟨0xD6#8, .two .decZpx⟩,
  ⟨0xD8#8, .one .cld⟩,
  ⟨0xD9#8, .three .cmpAby⟩,
  ⟨0xDA#8, .one .phx⟩,
  ⟨0xDD#8, .three .cmpAbx⟩,
  ⟨0xDE#8, .three .decAbx⟩]

/-- Row Ex of the opcode map (30_encoding.md R82). -/
def rowsE : List OpRow := [
  ⟨0xE0#8, .two .cpxImm⟩,
  ⟨0xE1#8, .two .sbcIzx⟩,
  ⟨0xE4#8, .two .cpxZp⟩,
  ⟨0xE5#8, .two .sbcZp⟩,
  ⟨0xE6#8, .two .incZp⟩,
  ⟨0xE8#8, .one .inx⟩,
  ⟨0xE9#8, .two .sbcImm⟩,
  ⟨0xEA#8, .one .nop⟩,
  ⟨0xEC#8, .three .cpxAbs⟩,
  ⟨0xED#8, .three .sbcAbs⟩,
  ⟨0xEE#8, .three .incAbs⟩]

/-- Row Fx of the opcode map (30_encoding.md R82). -/
def rowsF : List OpRow := [
  ⟨0xF0#8, .two .beq⟩,
  ⟨0xF1#8, .two .sbcIzy⟩,
  ⟨0xF2#8, .two .sbcIzp⟩,
  ⟨0xF5#8, .two .sbcZpx⟩,
  ⟨0xF6#8, .two .incZpx⟩,
  ⟨0xF8#8, .one .sed⟩,
  ⟨0xF9#8, .three .sbcAby⟩,
  ⟨0xFA#8, .one .plx⟩,
  ⟨0xFD#8, .three .sbcAbx⟩,
  ⟨0xFE#8, .three .incAbx⟩]

/-- The opcode map, 175 cells (30_encoding.md R82). -/
def opcodeMap : List OpRow :=
  rows0 ++ rows1 ++ rows2 ++ rows3 ++
  rows4 ++ rows5 ++ rows6 ++ rows7 ++
  rows8 ++ rows9 ++ rowsA ++ rowsB ++
  rowsC ++ rowsD ++ rowsE ++ rowsF

/-- The cell of an opcode; none for the 81 undocumented ones. -/
def findRow (op : Byte) : Option OpRow := opcodeMap.find? fun r => r.op == op

/-- The length of the instruction an opcode starts, told by the opcode alone (30_encoding.md R70). -/
def opcodeLength (op : Byte) : Option Nat := (findRow op).map fun r => r.build.length

/-- The decoder: the instruction the bytes start with, and the bytes after it. -/
def decode (bytes : List Byte) : Except DecodeReject (Instr × List Byte) :=
  match bytes with
  | [] => .error .truncated
  | op :: rest =>
    match findRow op with
    | none => .error (.undocumented op)
    | some r => r.build.apply rest

/-- The three bytes of a table word, its bits above `nbits` zero: bit 0 of the word is bit 0 of the first
byte, which lies lowest. -/
def wordBytes (nbits w : Nat) : List Byte :=
  let v := w % 2 ^ nbits
  [BitVec.ofNat 8 v, BitVec.ofNat 8 (v / 256), BitVec.ofNat 8 (v / 65536)]

/-- The instruction the decoder reads from a word of spec/opcode_table.json. -/
def decodeTableWord (nbits w : Nat) : Option Instr :=
  match decode (wordBytes nbits w) with
  | .ok r => some r.1
  | .error _ => none

/-- The bytes of an instruction (30_encoding.md R71, R82), 16-bit operands low byte first (R83). -/
def encode : Instr → List Byte
  | .ldaImm n => [0xA9#8, n]
  | .ldaZp n => [0xA5#8, n]
  | .ldaZpx n => [0xB5#8, n]
  | .ldaAbs nn => [0xAD#8, loByte nn, hiByte nn]
  | .ldaAbx nn => [0xBD#8, loByte nn, hiByte nn]
  | .ldaAby nn => [0xB9#8, loByte nn, hiByte nn]
  | .ldaIzx n => [0xA1#8, n]
  | .ldaIzy n => [0xB1#8, n]
  | .ldaIzp n => [0xB2#8, n]
  | .ldxImm n => [0xA2#8, n]
  | .ldxZp n => [0xA6#8, n]
  | .ldxZpy n => [0xB6#8, n]
  | .ldxAbs nn => [0xAE#8, loByte nn, hiByte nn]
  | .ldxAby nn => [0xBE#8, loByte nn, hiByte nn]
  | .ldyImm n => [0xA0#8, n]
  | .ldyZp n => [0xA4#8, n]
  | .ldyZpx n => [0xB4#8, n]
  | .ldyAbs nn => [0xAC#8, loByte nn, hiByte nn]
  | .ldyAbx nn => [0xBC#8, loByte nn, hiByte nn]
  | .staZp n => [0x85#8, n]
  | .staZpx n => [0x95#8, n]
  | .staAbs nn => [0x8D#8, loByte nn, hiByte nn]
  | .staAbx nn => [0x9D#8, loByte nn, hiByte nn]
  | .staAby nn => [0x99#8, loByte nn, hiByte nn]
  | .staIzx n => [0x81#8, n]
  | .staIzy n => [0x91#8, n]
  | .staIzp n => [0x92#8, n]
  | .stxZp n => [0x86#8, n]
  | .stxZpy n => [0x96#8, n]
  | .stxAbs nn => [0x8E#8, loByte nn, hiByte nn]
  | .styZp n => [0x84#8, n]
  | .styZpx n => [0x94#8, n]
  | .styAbs nn => [0x8C#8, loByte nn, hiByte nn]
  | .stzZp n => [0x64#8, n]
  | .stzZpx n => [0x74#8, n]
  | .stzAbs nn => [0x9C#8, loByte nn, hiByte nn]
  | .stzAbx nn => [0x9E#8, loByte nn, hiByte nn]
  | .tax => [0xAA#8]
  | .tay => [0xA8#8]
  | .tsx => [0xBA#8]
  | .txa => [0x8A#8]
  | .txs => [0x9A#8]
  | .tya => [0x98#8]
  | .adcImm n => [0x69#8, n]
  | .adcZp n => [0x65#8, n]
  | .adcZpx n => [0x75#8, n]
  | .adcAbs nn => [0x6D#8, loByte nn, hiByte nn]
  | .adcAbx nn => [0x7D#8, loByte nn, hiByte nn]
  | .adcAby nn => [0x79#8, loByte nn, hiByte nn]
  | .adcIzx n => [0x61#8, n]
  | .adcIzy n => [0x71#8, n]
  | .adcIzp n => [0x72#8, n]
  | .sbcImm n => [0xE9#8, n]
  | .sbcZp n => [0xE5#8, n]
  | .sbcZpx n => [0xF5#8, n]
  | .sbcAbs nn => [0xED#8, loByte nn, hiByte nn]
  | .sbcAbx nn => [0xFD#8, loByte nn, hiByte nn]
  | .sbcAby nn => [0xF9#8, loByte nn, hiByte nn]
  | .sbcIzx n => [0xE1#8, n]
  | .sbcIzy n => [0xF1#8, n]
  | .sbcIzp n => [0xF2#8, n]
  | .andImm n => [0x29#8, n]
  | .andZp n => [0x25#8, n]
  | .andZpx n => [0x35#8, n]
  | .andAbs nn => [0x2D#8, loByte nn, hiByte nn]
  | .andAbx nn => [0x3D#8, loByte nn, hiByte nn]
  | .andAby nn => [0x39#8, loByte nn, hiByte nn]
  | .andIzx n => [0x21#8, n]
  | .andIzy n => [0x31#8, n]
  | .andIzp n => [0x32#8, n]
  | .oraImm n => [0x09#8, n]
  | .oraZp n => [0x05#8, n]
  | .oraZpx n => [0x15#8, n]
  | .oraAbs nn => [0x0D#8, loByte nn, hiByte nn]
  | .oraAbx nn => [0x1D#8, loByte nn, hiByte nn]
  | .oraAby nn => [0x19#8, loByte nn, hiByte nn]
  | .oraIzx n => [0x01#8, n]
  | .oraIzy n => [0x11#8, n]
  | .oraIzp n => [0x12#8, n]
  | .eorImm n => [0x49#8, n]
  | .eorZp n => [0x45#8, n]
  | .eorZpx n => [0x55#8, n]
  | .eorAbs nn => [0x4D#8, loByte nn, hiByte nn]
  | .eorAbx nn => [0x5D#8, loByte nn, hiByte nn]
  | .eorAby nn => [0x59#8, loByte nn, hiByte nn]
  | .eorIzx n => [0x41#8, n]
  | .eorIzy n => [0x51#8, n]
  | .eorIzp n => [0x52#8, n]
  | .cmpImm n => [0xC9#8, n]
  | .cmpZp n => [0xC5#8, n]
  | .cmpZpx n => [0xD5#8, n]
  | .cmpAbs nn => [0xCD#8, loByte nn, hiByte nn]
  | .cmpAbx nn => [0xDD#8, loByte nn, hiByte nn]
  | .cmpAby nn => [0xD9#8, loByte nn, hiByte nn]
  | .cmpIzx n => [0xC1#8, n]
  | .cmpIzy n => [0xD1#8, n]
  | .cmpIzp n => [0xD2#8, n]
  | .cpxImm n => [0xE0#8, n]
  | .cpxZp n => [0xE4#8, n]
  | .cpxAbs nn => [0xEC#8, loByte nn, hiByte nn]
  | .cpyImm n => [0xC0#8, n]
  | .cpyZp n => [0xC4#8, n]
  | .cpyAbs nn => [0xCC#8, loByte nn, hiByte nn]
  | .bitZp n => [0x24#8, n]
  | .bitAbs nn => [0x2C#8, loByte nn, hiByte nn]
  | .tsbZp n => [0x04#8, n]
  | .tsbAbs nn => [0x0C#8, loByte nn, hiByte nn]
  | .trbZp n => [0x14#8, n]
  | .trbAbs nn => [0x1C#8, loByte nn, hiByte nn]
  | .aslZp n => [0x06#8, n]
  | .aslZpx n => [0x16#8, n]
  | .aslAbs nn => [0x0E#8, loByte nn, hiByte nn]
  | .aslAbx nn => [0x1E#8, loByte nn, hiByte nn]
  | .asla => [0x0A#8]
  | .lsrZp n => [0x46#8, n]
  | .lsrZpx n => [0x56#8, n]
  | .lsrAbs nn => [0x4E#8, loByte nn, hiByte nn]
  | .lsrAbx nn => [0x5E#8, loByte nn, hiByte nn]
  | .lsra => [0x4A#8]
  | .rolZp n => [0x26#8, n]
  | .rolZpx n => [0x36#8, n]
  | .rolAbs nn => [0x2E#8, loByte nn, hiByte nn]
  | .rolAbx nn => [0x3E#8, loByte nn, hiByte nn]
  | .rola => [0x2A#8]
  | .rorZp n => [0x66#8, n]
  | .rorZpx n => [0x76#8, n]
  | .rorAbs nn => [0x6E#8, loByte nn, hiByte nn]
  | .rorAbx nn => [0x7E#8, loByte nn, hiByte nn]
  | .rora => [0x6A#8]
  | .incZp n => [0xE6#8, n]
  | .incZpx n => [0xF6#8, n]
  | .incAbs nn => [0xEE#8, loByte nn, hiByte nn]
  | .incAbx nn => [0xFE#8, loByte nn, hiByte nn]
  | .decZp n => [0xC6#8, n]
  | .decZpx n => [0xD6#8, n]
  | .decAbs nn => [0xCE#8, loByte nn, hiByte nn]
  | .decAbx nn => [0xDE#8, loByte nn, hiByte nn]
  | .ina => [0x1A#8]
  | .dea => [0x3A#8]
  | .inx => [0xE8#8]
  | .iny => [0xC8#8]
  | .dex => [0xCA#8]
  | .dey => [0x88#8]
  | .bcc a => [0x90#8, a]
  | .bcs a => [0xB0#8, a]
  | .beq a => [0xF0#8, a]
  | .bmi a => [0x30#8, a]
  | .bne a => [0xD0#8, a]
  | .bpl a => [0x10#8, a]
  | .bvc a => [0x50#8, a]
  | .bvs a => [0x70#8, a]
  | .bra a => [0x80#8, a]
  | .jmpAbs nn => [0x4C#8, loByte nn, hiByte nn]
  | .jmpInd nn => [0x6C#8, loByte nn, hiByte nn]
  | .jmpIax nn => [0x7C#8, loByte nn, hiByte nn]
  | .jsr nn => [0x20#8, loByte nn, hiByte nn]
  | .rts => [0x60#8]
  | .pha => [0x48#8]
  | .php => [0x08#8]
  | .phx => [0xDA#8]
  | .phy => [0x5A#8]
  | .pla => [0x68#8]
  | .plp => [0x28#8]
  | .plx => [0xFA#8]
  | .ply => [0x7A#8]
  | .clc => [0x18#8]
  | .cld => [0xD8#8]
  | .cli => [0x58#8]
  | .clv => [0xB8#8]
  | .sec => [0x38#8]
  | .sed => [0xF8#8]
  | .sei => [0x78#8]
  | .nop => [0xEA#8]
  | .brk => [0x00#8]
  | .rti => [0x40#8]

end Sys2Proof
end

