-- ==== Sys2Proof/Config.lean ====
section
/-! DEFINITION. What the platform fixes (00_scope.md R5, 10_state.md R34) and the free values: constants
with no body, so that nothing proved can depend on which value they have (00_scope.md R7, `any`). -/

namespace Sys2Proof.Machine

/-- The free bytes, `any` of 00_scope.md R7: the n-th byte drawn (log 6). -/
opaque Config.freeByte : Nat → Byte

/-- The free bits, `any` of 00_scope.md R7: the n-th bit drawn (log 6). -/
opaque Config.freeBit : Nat → Bool

/-- What MEMMAP assigns to an address besides the PIA and nothing (92_eei_decisions.md D19). -/
inductive MemKind where
  | ram
  | rom
  deriving DecidableEq, Repr

/-- One region of MEMMAP: the addresses `base` to `base + size - 1`. -/
structure Region where
  base : Nat
  size : Nat
  kind : MemKind
  deriving DecidableEq, Repr

/-- Where a PIA interrupt output goes: IRQA_ROUTE, IRQB_ROUTE (92_eei_decisions.md D21). -/
inductive Route where
  | irq
  | nmi
  | nowhere
  deriving DecidableEq, Repr

/-- PA_READBACK (92_eei_decisions.md D25): what a port A line programmed as output reads as. -/
inductive PaReadback where
  | oraBit
  | anyValue
  deriving DecidableEq, Repr

/-- The parameters of the step relation (00_scope.md R5, 10_state.md R34). No step changes one.
END_PC is a parameter of a claim (Safety.lean); DMA_AGENT is `State.dmaTurns` and `Action.dma`. -/
structure Platform where
  /-- MEMMAP: an address in no region and not the PIA's is unmapped. -/
  memmap : List Region
  /-- PIA_BASE: the address of RS1 RS0 = 00, or none where no PIA answers. -/
  piaBase : Option Word
  /-- PIA_RS_WIRING: the number of the address line that drives RS0. -/
  rs0Line : Fin 16
  /-- PIA_RS_WIRING: the number of the address line that drives RS1. -/
  rs1Line : Fin 16
  irqaRoute : Route
  irqbRoute : Route
  /-- PIA_RES_TIED: the PIA's RES is the CPU's RES. -/
  piaResTied : Bool
  paReadback : PaReadback
  /-- CLOCK_HZ: no step reads it (92_eei_decisions.md D36). -/
  clockHz : Nat
  deriving DecidableEq, Repr

/-- The default platform. The spec's defaults: RS0 = A0, RS1 = A1, both routes IRQ, RES tied, the ORA
bit read back. DESIGN CHOICE (log 8): RAM everywhere, the PIA at 0x8000, a clock of 1 MHz. -/
def Platform.standard : Platform where
  memmap := [⟨0, 65536, .ram⟩]
  piaBase := some 0x8000#16
  rs0Line := 0
  rs1Line := 1
  irqaRoute := .irq
  irqbRoute := .irq
  piaResTied := true
  paReadback := .oraBit
  clockHz := 1000000

end Sys2Proof.Machine
end

