-- ==== Sys2Proof/Machine/State.lean ====
section
/-! DEFINITION. The state of the CPU, the memory and the PIA as plain data, the reasons a step can stop,
and the machine right after reset (10_state.md). -/

namespace Sys2Proof.Machine

/-- The flags of P that are storage: B and bit 5 are none (10_state.md R17). -/
structure Flags where
  n : Bool
  v : Bool
  d : Bool
  i : Bool
  z : Bool
  c : Bool
  deriving DecidableEq, Repr

/-- The two sections of the PIA (62_pia_r6520.md R300). -/
inductive Side where
  | a
  | b
  deriving DecidableEq, Repr

/-- One section of the PIA (10_state.md R30, R31): control, data direction and output register, the
levels on its port lines and control inputs, and the output latch of C2. -/
structure PiaSection where
  cr : Byte
  ddr : Byte
  outReg : Byte
  /-- PA_in or PB_in: the levels the environment puts on the port lines. -/
  pins : Byte
  /-- The level of CA1 (CB1): `prev` of 62_pia_r6520.md R335 at the next change. -/
  c1 : Level
  /-- The level of CA2 (CB2) as an input, likewise. -/
  c2 : Level
  /-- The output latch CA2_out (CB2_out). -/
  c2Out : Level
  deriving DecidableEq, Repr

/-- The R6520 (10_state.md R30, R31). -/
structure Pia where
  a : PiaSection
  b : PiaSection
  /-- The data input register DIR: the byte of the last write (10_state.md R30). -/
  dir : Byte
  /-- The PIA's own RES input, used where PIA_RES_TIED is no (92_eei_decisions.md D26). -/
  res : Level
  deriving DecidableEq, Repr

/-- A level driven on CA2 or CB2, as the environment sees it (62_pia_r6520.md R322, R326). -/
structure PinEvent where
  side : Side
  level : Level
  deriving DecidableEq, Repr

/-- One access of the DMA agent (20_memory.md R59). -/
inductive DmaAccess where
  | read (a : Word)
  | write (a : Word) (v : Byte)
  deriving DecidableEq, Repr

/-- What the environment may change between steps (70_reset_and_hazards.md R370). -/
inductive EnvEvent where
  | res (l : Level)
  | piaRes (l : Level)
  | extIrq (asserted : Bool)
  | extNmi (asserted : Bool)
  | port (side : Side) (v : Byte)
  | c1 (side : Side) (l : Level)
  | c2 (side : Side) (l : Level)
  deriving DecidableEq, Repr

/-- One move of one agent (70_reset_and_hazards.md R370). `cpuTorn` is a CPU step under way when RES
falls (70_reset_and_hazards.md R351). -/
inductive Action where
  | cpu
  | cpuTorn
  | env (e : EnvEvent)
  | dma (d : DmaAccess)
  deriving DecidableEq, Repr

/-- An access of the step under way that can change something: a byte the CPU wrote, a byte the CPU read
from the PIA, a byte the DMA agent wrote to RAM. The model's own record (log 32). -/
inductive BusEvent where
  | write (a : Word) (v : Byte)
  | piaRead (a : Word)
  | dma (a : Word) (v : Byte)
  deriving DecidableEq, Repr

/-- Why a step faults. There is no way: the machine has no synchronous exception and no access can
fault (60_exceptions.md R260, 20_memory.md R53), so the type has no constructor. -/
inductive Fault where
  deriving DecidableEq, Repr

/-- Why a step is refused. -/
inductive Refusal where
  /-- Raised by an arm of `exec` whose instruction has no meaning yet. Safe: the model stops. No arm
  raises it now. -/
  | notModelled (mnemonic : String)
  /-- Raised by the fetch when the byte at PC is one of the 81 opcodes the spec gives no meaning
  (30_encoding.md R86, a `refuse` of the spec). Safe: the model stops where the chip goes on. -/
  | undocumentedOpcode (op : Byte)
  /-- Raised by an instruction, a trap entry, the reset sequence or the fetch when it touches a PIA
  address in a form outside 20_memory.md R61 (a `refuse` of the spec). Safe: the model stops where the
  chip goes on. -/
  | deviceUnsafe (a : Word)
  deriving DecidableEq, Repr

/-- Memory: the bytes that differ from what an unlisted address reads as, addresses strictly rising
(`Memory.wf` of Machine/Memory.lean). -/
abbrev Memory := List Host.Cell

/-- The whole machine. INVENTORY.md names the rule of each field. -/
structure State where
  a : Byte
  x : Byte
  y : Byte
  sp : Byte
  pc : Word
  p : Flags
  mem : Memory
  nmiPending : Bool
  resLine : Level
  resetPending : Bool
  extIrq : Bool
  extNmi : Bool
  /-- I before the instruction that changed it, for the boundary that follows (60_exceptions.md R264). -/
  slackI : Option Bool
  /-- irq_line before the PIA access that changed it, for the boundary that follows
  (60_exceptions.md R264). -/
  slackLine : Option Bool
  pia : Pia
  /-- The parameters: constant along every run (10_state.md R34, log 9). -/
  platform : Platform
  /-- How many free values have been drawn (the model's own, log 6). -/
  draws : Nat
  /-- The agents' moves to come, oldest first; the CPU moves where it is empty (log 10). -/
  agenda : List Action
  /-- What the DMA agent does before each of the CPU accesses to come (log 11). -/
  dmaTurns : List (List DmaAccess)
  /-- The levels driven on CA2 and CB2 during the step just done, oldest first (log 32). -/
  pinEvents : List PinEvent
  /-- The accesses of the step just done that can change something, oldest first (log 32). -/
  trace : List BusEvent
  deriving DecidableEq, Repr

/-- What a meaning answers. -/
abbrev Result := Host.Outcome State Fault Refusal

/-- A section of the PIA after reset: 10_state.md R33 for the registers; the line levels and the latch
are DESIGN CHOICE (log 4, log 5). -/
def PiaSection.reset : PiaSection where
  cr := 0x00#8
  ddr := 0x00#8
  outReg := 0x00#8
  pins := 0x00#8
  c1 := .low
  c2 := .low
  c2Out := .low

/-- The machine right after the reset sequence (10_state.md R32, R33; 70_reset_and_hazards.md R350).
I, D, nmi_pending and the six PIA registers are the spec's; PC is the word at 0xFFFC, 0xFFFD of the
memory; A, X, Y, S, N, V, Z, C are DESIGN CHOICE (log 2). -/
def State.reset : State where
  a := 0x00#8
  x := 0x00#8
  y := 0x00#8
  sp := 0x00#8
  pc := 0x0000#16
  p := { n := false, v := false, d := false, i := true, z := false, c := false }
  mem := []
  nmiPending := false
  resLine := .high
  resetPending := false
  extIrq := false
  extNmi := false
  slackI := none
  slackLine := none
  pia := { a := PiaSection.reset, b := PiaSection.reset, dir := 0x00#8, res := .high }
  platform := Platform.standard
  draws := 0
  agenda := []
  dmaTurns := []
  pinEvents := []
  trace := []

end Sys2Proof.Machine
end

