-- ==== Sys2Proof/Machine/Flags.lean ====
section
/-! DEFINITION. The images of P and every flag computation (10_state.md R25 to R27; 42_arithmetic_logic.md;
43_shift_incdec.md). Sums are taken over Nat and narrowed at the end. -/

namespace Sys2Proof.Machine

/-- `setNZ(v)` (10_state.md R25). -/
def Flags.setNZ (p : Flags) (v : Byte) : Flags := { p with n := v.msb, z := decide (v = 0#8) }

/-- `Pbyte(b)`, the pushed image of P with B shown as `b` (10_state.md R26). -/
def Flags.image (p : Flags) (b : Bool) : Byte :=
  bitAt p.n 7 ||| bitAt p.v 6 ||| bitAt true 5 ||| bitAt b 4 ||| bitAt p.d 3 ||| bitAt p.i 2 |||
    bitAt p.z 1 ||| bitAt p.c 0

/-- `setP(v)`: the six flags of a pulled byte, whose bits 5 and 4 are ignored (10_state.md R27). -/
def Flags.ofByte (v : Byte) : Flags where
  n := bit v 7
  v := bit v 6
  d := bit v 3
  i := bit v 2
  z := bit v 1
  c := bit v 0

/-- ADC with D = 0 (42_arithmetic_logic.md R151): the result and the flags. -/
def addBinary (a m : Byte) (p : Flags) : Byte × Flags :=
  let t := a.toNat + m.toNat + p.c.toNat
  let r := BitVec.ofNat 8 t
  let p' := Flags.setNZ p r
  (r, { p' with v := (a.msb == m.msb) && (r.msb != a.msb), c := decide (256 ≤ t) })

/-- SBC with D = 0 (42_arithmetic_logic.md R153): the sum with the one's complement of the operand. -/
def subBinary (a m : Byte) (p : Flags) : Byte × Flags :=
  let t := a.toNat + (m ^^^ 0xFF#8).toNat + p.c.toNat
  let r := BitVec.ofNat 8 t
  let p' := Flags.setNZ p r
  (r, { p' with v := (a.msb != m.msb) && (r.msb != a.msb), c := decide (256 ≤ t) })

/-- Both digits of a byte are decimal (42_arithmetic_logic.md R152). -/
def bcdValid (v : Byte) : Bool := decide (v.toNat / 16 ≤ 9) && decide (v.toNat % 16 ≤ 9)

/-- The number two packed BCD digits stand for (42_arithmetic_logic.md R152). -/
def bcdValue (v : Byte) : Nat := 10 * (v.toNat / 16) + v.toNat % 16

/-- A number below 100 as two packed BCD digits (42_arithmetic_logic.md R152). -/
def bcdByte (r : Nat) : Byte := BitVec.ofNat 8 (r / 10 * 16 + r % 10)

/-- `DecimalAdd` on valid digits (42_arithmetic_logic.md R152), `free` being the undetermined V. -/
def addDecimal (a m : Byte) (p : Flags) (free : Bool) : Byte × Flags :=
  let t := bcdValue a + bcdValue m + p.c.toNat
  let r := bcdByte (t % 100)
  let p' := Flags.setNZ p r
  (r, { p' with v := free, c := decide (100 ≤ t) })

/-- `DecimalSub` on valid digits (42_arithmetic_logic.md R154), `free` being the undetermined V. The
exact difference is an integer; a negative one borrows 100 and clears C. -/
def subDecimal (a m : Byte) (p : Flags) (free : Bool) : Byte × Flags :=
  let t : Int := (bcdValue a : Int) - bcdValue m - (1 - (p.c.toNat : Int))
  let r := bcdByte (if t < 0 then t + 100 else t).toNat
  let p' := Flags.setNZ p r
  (r, { p' with v := free, c := decide (0 ≤ t) })

/-- `Compare(r, m)` (42_arithmetic_logic.md R161). -/
def compareFlags (r m : Byte) (p : Flags) : Flags :=
  let t := r.toNat + (m ^^^ 0xFF#8).toNat + 1
  let p' := Flags.setNZ p (BitVec.ofNat 8 t)
  { p' with c := decide (256 ≤ t) }

/-- BIT (42_arithmetic_logic.md R165): Z of the AND, N and V from the operand. -/
def bitTestFlags (a m : Byte) (p : Flags) : Flags :=
  { p with z := decide (a &&& m = 0#8), n := bit m 7, v := bit m 6 }

/-- The Z of TSB and TRB (42_arithmetic_logic.md R166, R167); no other flag changes. -/
def testZ (a m : Byte) (p : Flags) : Flags := { p with z := decide (a &&& m = 0#8) }

/-- ASL and ASLA (43_shift_incdec.md R181, R182). -/
def shiftLeft (m : Byte) (p : Flags) : Byte × Flags :=
  let r := m <<< 1
  (r, { Flags.setNZ p r with c := bit m 7 })

/-- LSR and LSRA (43_shift_incdec.md R183, R184): N is always 0. -/
def shiftRight (m : Byte) (p : Flags) : Byte × Flags :=
  let r := m >>> 1
  (r, { p with n := false, z := decide (r = 0#8), c := bit m 0 })

/-- ROL and ROLA (43_shift_incdec.md R185, R186): the old C enters bit 0. -/
def rotateLeft (m : Byte) (p : Flags) : Byte × Flags :=
  let r := m <<< 1 ||| bitAt p.c 0
  (r, { Flags.setNZ p r with c := bit m 7 })

/-- ROR and RORA (43_shift_incdec.md R187, R188): the old C enters bit 7. -/
def rotateRight (m : Byte) (p : Flags) : Byte × Flags :=
  let r := m >>> 1 ||| bitAt p.c 7
  (r, { Flags.setNZ p r with c := bit m 0 })

/-- INC, INA, INX, INY (43_shift_incdec.md R189, R191, R193, R194). -/
def increment (m : Byte) (p : Flags) : Byte × Flags := (m + 1#8, Flags.setNZ p (m + 1#8))

/-- DEC, DEA, DEX, DEY (43_shift_incdec.md R190, R192, R195, R196). -/
def decrement (m : Byte) (p : Flags) : Byte × Flags := (m - 1#8, Flags.setNZ p (m - 1#8))

end Sys2Proof.Machine
end

