-- ==== Sys2Proof/Machine/Memory.lean ====
section
/-! DEFINITION. Memory as a list of cells in one canonical form (20_memory.md R40). -/

namespace Sys2Proof.Machine

/-- What an address that is not listed reads as. The spec leaves RAM at power-on `any`
(70_reset_and_hazards.md R352, 93_implementation_defined.md U5); DESIGN CHOICE: 0x00, unsafe (log 1). -/
def unlistedByte : Byte := 0x00#8

/-- The byte stored at address `a`. -/
def Memory.read (m : Memory) (a : Nat) : Byte :=
  match m with
  | [] => unlistedByte
  | (b, v) :: rest => if b = a then v else Memory.read rest a

/-- `m` without any cell for address `a`. -/
def Memory.erase (m : Memory) (a : Nat) : Memory :=
  m.filter fun c => c.1 != a

/-- `m` with the cell (a, v) put in front of the first higher address. -/
def Memory.insert (m : Memory) (a : Nat) (v : Byte) : Memory :=
  match m with
  | [] => [(a, v)]
  | (b, w) :: rest => if a < b then (a, v) :: (b, w) :: rest else (b, w) :: Memory.insert rest a v

/-- `m` with byte `v` at address `a`; a cell equal to what an unlisted address reads as is dropped. -/
def Memory.write (m : Memory) (a : Nat) (v : Byte) : Memory :=
  if v = unlistedByte then Memory.erase m a else Memory.insert (Memory.erase m a) a v

/-- The addresses of a memory rise strictly. -/
def Memory.rising (m : Memory) : Bool :=
  match m with
  | [] => true
  | [_] => true
  | c :: d :: rest => decide (c.1 < d.1) && Memory.rising (d :: rest)

/-- The canonical form: addresses strictly rising and below 65536, no cell equal to what an unlisted
address reads as. -/
def Memory.wf (m : Memory) : Bool :=
  Memory.rising m && m.all fun c => decide (c.1 < 65536) && decide (c.2 ≠ unlistedByte)

/-- The byte of memory at a 16-bit address, with no access made: what a statement about memory reads. -/
def State.peek (s : State) (a : Word) : Byte := Memory.read s.mem a.toNat

end Sys2Proof.Machine
end

