-- ==== Sys2Proof/Machine/Pia.lean ====
section
/-! DEFINITION. The R6520 (62_pia_r6520.md): its register accesses, edge detectors, interrupt outputs and
reset, and the CPU input lines those outputs drive (60_exceptions.md R262, R265). -/

namespace Sys2Proof.Machine

/-- The five uses of CA2 (CB2) that bits 5 to 3 of a control register select
(62_pia_r6520.md R318, R321, R325). -/
inductive C2Mode where
  | input
  | handshake
  | pulse
  | manualLow
  | manualHigh
  deriving DecidableEq, Repr

/-- Bits 5 to 3 of a control register (62_pia_r6520.md R330). -/
def c2Mode (cr : Byte) : C2Mode :=
  if bit cr 5 then
    if bit cr 4 then (if bit cr 3 then .manualHigh else .manualLow)
    else (if bit cr 3 then .pulse else .handshake)
  else .input

/-- The four register addresses of the PIA, RS1 RS0 = 00, 01, 10, 11 (62_pia_r6520.md R302). -/
inductive PiaReg where
  | dataA
  | controlA
  | dataB
  | controlB
  deriving DecidableEq, Repr

/-- The section of a side. -/
def Pia.section (q : Pia) : Side → PiaSection
  | .a => q.a
  | .b => q.b

/-- The state with one section of the PIA replaced by its image under `f`. -/
def State.updSection (side : Side) (f : PiaSection → PiaSection) (s : State) : State :=
  match side with
  | .a => { s with pia := { s.pia with a := f s.pia.a } }
  | .b => { s with pia := { s.pia with b := f s.pia.b } }

/-- IRQA (IRQB) is low (62_pia_r6520.md R331). -/
def PiaSection.irqLow (q : PiaSection) : Bool :=
  (bit q.cr 7 && bit q.cr 0) || (bit q.cr 6 && bit q.cr 3)

/-- A control register as a read shows it: bit 6 is 0 while bit 5 is 1 (62_pia_r6520.md R304, R320). -/
def PiaSection.shownCr (q : PiaSection) : Byte :=
  if bit q.cr 5 then q.cr &&& 0xBF#8 else q.cr

/-- What line `i` of the port drives: its output register bit where it is an output
(62_pia_r6520.md R306). -/
def PiaSection.lineOut (q : PiaSection) (i : Fin 8) : Option Level :=
  if bit q.ddr i.val then some (if bit q.outReg i.val then .high else .low) else none

/-- What CA2 (CB2) drives: the latch while bit 5 is 1 (10_state.md R31, 62_pia_r6520.md R323). -/
def PiaSection.c2Driven (q : PiaSection) : Option Level :=
  if bit q.cr 5 then some q.c2Out else none

/-- `irq_line` is asserted (60_exceptions.md R262). -/
def State.irqAsserted (s : State) : Bool :=
  (decide (s.platform.irqaRoute = .irq) && s.pia.a.irqLow) ||
    (decide (s.platform.irqbRoute = .irq) && s.pia.b.irqLow) || s.extIrq

/-- `nmi_line` is low (60_exceptions.md R265). -/
def State.nmiLow (s : State) : Bool :=
  (decide (s.platform.irqaRoute = .nmi) && s.pia.a.irqLow) ||
    (decide (s.platform.irqbRoute = .nmi) && s.pia.b.irqLow) || s.extNmi

/-- A transition of `nmi_line` from high to low sets `nmi_pending` (60_exceptions.md R265): `old` is the
state before the change, the second argument the state after. -/
def State.latchNmi (old s : State) : State :=
  if !old.nmiLow && s.nmiLow then { s with nmiPending := true } else s

/-- A PIA access that changes `irq_line` leaves its old level as an alternative for the next boundary
(60_exceptions.md R264). -/
def State.noteLine (old s : State) : State :=
  if old.irqAsserted = s.irqAsserted then s else { s with slackLine := some old.irqAsserted }

/-- The PIA's RES input is low (62_pia_r6520.md R337, 92_eei_decisions.md D26). -/
def State.piaInReset (s : State) : Bool :=
  decide ((if s.platform.piaResTied then s.resLine else s.pia.res) = .low)

/-- A section with its three registers zero (62_pia_r6520.md R337). -/
def PiaSection.cleared (q : PiaSection) : PiaSection :=
  { q with cr := 0x00#8, ddr := 0x00#8, outReg := 0x00#8 }

/-- While the PIA's RES is low its six registers are zero (62_pia_r6520.md R337). -/
def State.holdPia (s : State) : State :=
  if s.piaInReset then (s.updSection .a PiaSection.cleared).updSection .b PiaSection.cleared else s

/-- CA2 (CB2) is driven to a level, which the environment sees (62_pia_r6520.md R322, R326). -/
def State.driveC2 (side : Side) (l : Level) (s : State) : State :=
  let s1 := s.updSection side fun q => { q with c2Out := l }
  { s1 with pinEvents := s1.pinEvents ++ [⟨side, l⟩] }

/-- The handshake or pulse of a data access: L in handshake mode, the pair L, H in pulse mode
(62_pia_r6520.md R322, R326). -/
def State.strobeC2 (side : Side) (s : State) : State :=
  match c2Mode (s.pia.section side).cr with
  | .handshake => s.driveC2 side .low
  | .pulse => (s.driveC2 side .low).driveC2 side .high
  | .input => s
  | .manualLow => s
  | .manualHigh => s

/-- `PortARead` (62_pia_r6520.md R307): the pins; an output line shows its ORA bit, or a free bit where
PA_READBACK is `any`. -/
def State.portARead (s : State) : Byte × State :=
  let q := s.pia.a
  match s.platform.paReadback with
  | .oraBit => ((q.pins &&& ~~~q.ddr) ||| (q.outReg &&& q.ddr), s)
  | .anyValue =>
    ((q.pins &&& ~~~q.ddr) ||| (Config.freeByte s.draws &&& q.ddr), { s with draws := s.draws + 1 })

/-- `PortBRead` (62_pia_r6520.md R308): input lines from the pins, output lines from ORB. -/
def State.portBRead (s : State) : Byte × State :=
  let q := s.pia.b
  ((q.pins &&& ~~~q.ddr) ||| (q.outReg &&& q.ddr), s)

/-- Both interrupt flags of a section cleared (62_pia_r6520.md R333). -/
def PiaSection.clearFlags (q : PiaSection) : PiaSection := { q with cr := q.cr &&& 0x3F#8 }

/-- `PiaRead` (62_pia_r6520.md R304) before the outputs are re-evaluated. -/
def State.piaReadRaw (rs : PiaReg) (s : State) : Byte × State :=
  match rs with
  | .dataA =>
    if bit s.pia.a.cr 2 then
      let r := s.portARead
      (r.1, (r.2.updSection .a PiaSection.clearFlags).strobeC2 .a)
    else (s.pia.a.ddr, s)
  | .controlA => (s.pia.a.shownCr, s)
  | .dataB =>
    if bit s.pia.b.cr 2 then
      let r := s.portBRead
      (r.1, r.2.updSection .b PiaSection.clearFlags)
    else (s.pia.b.ddr, s)
  | .controlB => (s.pia.b.shownCr, s)

/-- The control register a CPU write leaves: bits 5 to 0 are the byte's, bits 7 and 6 are kept, and bit 6
is cleared where bit 5 becomes or stays 1 (62_pia_r6520.md R303, R320). -/
def crAfterWrite (old v : Byte) : Byte :=
  (v &&& 0x3F#8) ||| (old &&& (if bit v 5 then 0x80#8 else 0xC0#8))

/-- A write of CRA (CRB) and the level CA2 (CB2) then has (62_pia_r6520.md R303, R323, R327): newly
selecting handshake leaves a free level. -/
def State.writeControl (side : Side) (v : Byte) (s : State) : State :=
  let old := (s.pia.section side).cr
  let s1 := s.updSection side fun q => { q with cr := crAfterWrite q.cr v }
  match c2Mode v with
  | .manualLow => s1.driveC2 side .low
  | .manualHigh => s1.driveC2 side .high
  | .pulse => s1.driveC2 side .high
  | .handshake =>
    if c2Mode old = .handshake then s1
    else { s1 with draws := s1.draws + 1 }.driveC2 side
      (if Config.freeBit s1.draws then .high else .low)
  | .input => s1

/-- A write of a section's data address: the output register or the data direction register
(62_pia_r6520.md R303). -/
def State.writeData (side : Side) (v : Byte) (s : State) : State :=
  if bit (s.pia.section side).cr 2 then s.updSection side fun q => { q with outReg := v }
  else s.updSection side fun q => { q with ddr := v }

/-- `PiaWrite` (62_pia_r6520.md R303) before the outputs are re-evaluated; DIR takes the byte. -/
def State.piaWriteRaw (rs : PiaReg) (v : Byte) (s : State) : State :=
  let s1 := { s with pia := { s.pia with dir := v } }
  match rs with
  | .dataA => s1.writeData .a v
  | .controlA => s1.writeControl .a v
  | .dataB => if bit s1.pia.b.cr 2 then (s1.writeData .b v).strobeC2 .b else s1.writeData .b v
  | .controlB => s1.writeControl .b v

/-- `PiaRead` with the outputs re-evaluated (62_pia_r6520.md R304, R331). -/
def State.piaRead (rs : PiaReg) (s : State) : Byte × State :=
  let r := s.piaReadRaw rs
  (r.1, State.noteLine s (State.latchNmi s r.2))

/-- `PiaWrite` with the outputs re-evaluated (62_pia_r6520.md R303, R331). While the PIA's RES is low its
registers stay zero and nothing is driven (R337, log 16). -/
def State.piaWrite (rs : PiaReg) (v : Byte) (s : State) : State :=
  if s.piaInReset then { s with pia := { s.pia with dir := v } }.holdPia
  else State.noteLine s (State.latchNmi s (s.piaWriteRaw rs v))

/-- The active transition: negative where the select bit is 0, positive where it is 1
(62_pia_r6520.md R312, R318). -/
def activeEdge (positive : Bool) (prev now : Level) : Bool :=
  if positive then decide (prev = .low ∧ now = .high) else decide (prev = .high ∧ now = .low)

/-- A change of CA1 (CB1) at the edge detector (62_pia_r6520.md R335). -/
def State.changeC1 (side : Side) (l : Level) (s : State) : State :=
  let q := s.pia.section side
  let s1 := s.updSection side fun q => { q with c1 := l }
  if activeEdge (bit q.cr 1) q.c1 l then
    let s2 := s1.updSection side fun q => { q with cr := q.cr ||| 0x80#8 }
    if c2Mode q.cr = .handshake then s2.driveC2 side .high else s2
  else s1

/-- A change of CA2 (CB2) at the edge detector, only while it is an input (62_pia_r6520.md R335); while it
is an output the environment makes no such change (70_reset_and_hazards.md R370, log 17). -/
def State.changeC2 (side : Side) (l : Level) (s : State) : State :=
  let q := s.pia.section side
  if bit q.cr 5 then s
  else
    let s1 := s.updSection side fun q => { q with c2 := l }
    if activeEdge (bit q.cr 4) q.c2 l then
      s1.updSection side fun q => { q with cr := q.cr ||| 0x40#8 }
    else s1

end Sys2Proof.Machine
end

