-- ==== Sys2Proof/Machine/Ops.lean ====
section
/-! DEFINITION. The named operations over memory, stack and registers: what answers an address, one bus
access, the guard of 20_memory.md R61, push and pull, trap entry and return, the reset sequence. -/

namespace Sys2Proof.Machine

/-- What answers an address (20_memory.md R41, 92_eei_decisions.md D19). -/
inductive Target where
  | ram
  | rom
  | pia (r : PiaReg)
  | unmapped
  deriving DecidableEq, Repr

/-- The address PIA_BASE plus the weights of the address lines that are high (62_pia_r6520.md R301). -/
def piaAddress (base : Word) (rs0 rs1 : Fin 16) (r0 r1 : Bool) : Word :=
  base + (if r0 then 1#16 <<< rs0.val else 0#16) + (if r1 then 1#16 <<< rs1.val else 0#16)

/-- The PIA register an address selects, if any (62_pia_r6520.md R301, R302; log 18). -/
def Platform.piaSelect (p : Platform) (a : Word) : Option PiaReg :=
  match p.piaBase with
  | none => none
  | some base =>
    if a = piaAddress base p.rs0Line p.rs1Line false false then some .dataA
    else if a = piaAddress base p.rs0Line p.rs1Line true false then some .controlA
    else if a = piaAddress base p.rs0Line p.rs1Line false true then some .dataB
    else if a = piaAddress base p.rs0Line p.rs1Line true true then some .controlB
    else none

/-- What answers an address: the PIA where it is selected, else the first region that holds the address,
else nothing (20_memory.md R41). -/
def Platform.target (p : Platform) (a : Word) : Target :=
  match p.piaSelect a with
  | some r => .pia r
  | none =>
    match p.memmap.find? fun r => decide (r.base ≤ a.toNat ∧ a.toNat < r.base + r.size) with
    | some r =>
      match r.kind with
      | .ram => .ram
      | .rom => .rom
    | none => .unmapped

/-- The PIA answers this address. -/
def Platform.isPia (p : Platform) (a : Word) : Bool := (p.piaSelect a).isSome

/-- One access of the DMA agent: it touches memory only (91_not_in_source.md N17, log 11). -/
def applyDma (s : State) (d : DmaAccess) : State :=
  match d with
  | .read _ => s
  | .write a v =>
    match s.platform.target a with
    | .ram => { s with mem := Memory.write s.mem a.toNat v, trace := s.trace ++ [BusEvent.dma a v] }
    | .rom => s
    | .pia _ => s
    | .unmapped => s

/-- What the DMA agent does before the next CPU access (20_memory.md R59). -/
def State.dmaTurn (s : State) : State :=
  match s.dmaTurns with
  | [] => s
  | turn :: rest => turn.foldl applyDma { s with dmaTurns := rest }

/-- The read of one byte by the CPU, no DMA access before it (20_memory.md R41). -/
def busRead (a : Word) (s : State) : Byte × State :=
  match s.platform.target a with
  | .ram => (Memory.read s.mem a.toNat, s)
  | .rom => (Memory.read s.mem a.toNat, s)
  | .pia r => { s with trace := s.trace ++ [BusEvent.piaRead a] }.piaRead r
  | .unmapped => (Config.freeByte s.draws, { s with draws := s.draws + 1 })

/-- The write of one byte by the CPU, no DMA access before it (20_memory.md R42). -/
def busWrite (a : Word) (v : Byte) (s : State) : State :=
  let s1 := { s with trace := s.trace ++ [BusEvent.write a v] }
  match s1.platform.target a with
  | .ram => { s1 with mem := Memory.write s1.mem a.toNat v }
  | .rom => s1
  | .pia r => s1.piaWrite r v
  | .unmapped => s1

/-- `MemRead(a, 1)` (20_memory.md R41), after what the DMA agent does before it (R59). -/
def readAt (a : Word) (s : State) : Byte × State := busRead a s.dmaTurn

/-- `MemWrite(a, 1, v)` (20_memory.md R42), after what the DMA agent does before it (R59). -/
def writeAt (a : Word) (v : Byte) (s : State) : State := busWrite a v s.dmaTurn

/-- The guard of 20_memory.md R61: `touched` are the addresses an instruction or entry touches in a way
that rule does not admit on the PIA; where one is the PIA's the step is refused (70_reset_and_hazards.md
R364), else `t` is the next state. -/
def guarded (s : State) (touched : List Word) (t : State) : Result :=
  match touched.find? s.platform.isPia with
  | some a => .refused (.deviceUnsafe a)
  | none => .next t

/-- `PC <- (pc0 + L) mod 65536` (10_state.md R16). -/
def State.advance (s : State) (len : Nat) : State := { s with pc := s.pc + BitVec.ofNat 16 len }

/-- The 16-bit address `0x0100 + S` (10_state.md R14). -/
def stackAddr (sp : Byte) : Word := 0x0100#16 + zext sp

/-- `Push(v)`: store, then decrement (20_memory.md R47). -/
def push (v : Byte) (s : State) : State :=
  let s1 := writeAt (stackAddr s.sp) v s
  { s1 with sp := s1.sp - 1#8 }

/-- `Pull()`: increment, then read (20_memory.md R48). -/
def pull (s : State) : Byte × State :=
  readAt (stackAddr (s.sp + 1#8)) { s with sp := s.sp + 1#8 }

/-- Two pushes, high byte first (44_branch_jump.md R224, 60_exceptions.md R270). -/
def pushWord (w : Word) (s : State) : State := push (loByte w) (push (hiByte w) s)

/-- Two pulls, low byte first (44_branch_jump.md R225, 45_stack_flag_system.md R248). -/
def pullWord (s : State) : Word × State :=
  let lo := pull s
  let hi := pull lo.2
  (wordOf hi.1 lo.1, hi.2)

/-- The word at `a`, low byte first, with a 16-bit increment (20_memory.md R43, 40_addressing_modes.md
R113). -/
def readWord (a : Word) (s : State) : Word × State :=
  let lo := readAt a s
  let hi := readAt (a + 1#16) lo.2
  (wordOf hi.1 lo.1, hi.2)

/-- The addresses the next `n` pushes store to. -/
def pushAddrs (sp : Byte) : Nat → List Word
  | 0 => []
  | n + 1 => stackAddr sp :: pushAddrs (sp - 1#8) n

/-- The addresses the next `n` pulls read. -/
def pullAddrs (sp : Byte) : Nat → List Word
  | 0 => []
  | n + 1 => stackAddr (sp + 1#8) :: pullAddrs (sp + 1#8) n

/-- The vectors (20_memory.md R46). -/
def nmiVector : Word := 0xFFFA#16

/-- The reset vector (20_memory.md R46). -/
def resetVector : Word := 0xFFFC#16

/-- The vector of IRQ and BRK (20_memory.md R46). -/
def irqVector : Word := 0xFFFE#16

/-- `TrapEntry(vec, b)` with the return address `ret` (60_exceptions.md R270, R273): PC high, PC low and
the image of P are pushed, I is set, D is cleared, PC is the word at the vector. -/
def enterTrap (vec ret : Word) (b : Bool) (s : State) : State :=
  let s1 := push (Flags.image s.p b) (pushWord ret s)
  let s2 := { s1 with p := { s1.p with i := true, d := false } }
  let w := readWord vec s2
  { w.2 with pc := w.1 }

/-- A trap entry, refused where the stack or the vector lies on the PIA (20_memory.md R61). -/
def takeTrap (vec ret : Word) (b : Bool) (s : State) : Result :=
  guarded s (pushAddrs s.sp 3 ++ [vec, vec + 1#16]) (enterTrap vec ret b s)

/-- What an instruction that loads I leaves for the boundary that follows: its old value where it changed
(60_exceptions.md R264). -/
def State.noteI (old : Bool) (s : State) : State :=
  if old = s.p.i then s else { s with slackI := some old }

/-- The return from a trap (45_stack_flag_system.md R248): P, PC low, PC high are pulled. -/
def returnFromTrap (s : State) : State :=
  let f := pull s
  let s1 := State.noteI s.p.i { f.2 with p := Flags.ofByte f.1 }
  let w := pullWord s1
  { w.2 with pc := w.1 }

/-- The reset sequence (70_reset_and_hazards.md R350, 10_state.md R32): I, D and nmi_pending as stated,
the other flags and A, X, Y, S free, PC from the reset vector; nothing is pushed. -/
def resetSequence (s : State) : State :=
  let k := s.draws
  let s1 := { s with
    a := Config.freeByte k
    x := Config.freeByte (k + 1)
    y := Config.freeByte (k + 2)
    sp := Config.freeByte (k + 3)
    p := { n := Config.freeBit k, v := Config.freeBit (k + 1), d := false, i := true,
           z := Config.freeBit (k + 2), c := Config.freeBit (k + 3) }
    nmiPending := false
    resetPending := false
    slackI := none
    slackLine := none
    draws := k + 4 }
  let w := readWord resetVector s1
  { w.2 with pc := w.1 }

/-- The reset sequence as a step, refused where the vector lies on the PIA (20_memory.md R61). -/
def takeReset (s : State) : Result :=
  guarded s [resetVector, resetVector + 1#16] (resetSequence s)

end Sys2Proof.Machine
end

