-- ==== Sys2Proof/Machine/Boundary.lean ====
section
/-! DEFINITION. The instruction boundary (60_exceptions.md R264, R267, R281): which trap is taken, and
the fetch of the next instruction. -/

namespace Sys2Proof.Machine

/-- What happens at an instruction boundary (60_exceptions.md R264). -/
inductive Selection where
  | nmi
  | irq
  | instruction
  deriving DecidableEq, Repr

/-- The slack of the instruction just completed is used up at this boundary (60_exceptions.md R264). -/
def State.clearSlack (s : State) : State := { s with slackI := none, slackLine := none }

/-- A boundary value with slack: the old value where a free bit says so (60_exceptions.md R264, log 12). -/
def slackValue (old : Option Bool) (now : Bool) (draw : Nat) : Bool :=
  match old with
  | none => now
  | some o => if Config.freeBit draw then o else now

/-- An IRQ is taken at this boundary if no NMI is (60_exceptions.md R264): the line is asserted and I is
0, each at its old or new value where the instruction just completed changed it. The new value of the line is
its level at the boundary, the old one its level before the PIA access, even where the environment moved a
source of the line in between: R264 leaves that case open, DESIGN CHOICE (log 39). -/
def State.irqSelected (s : State) : Bool :=
  slackValue s.slackLine s.irqAsserted s.draws && !slackValue s.slackI s.p.i (s.draws + 1)

/-- The boundary test (60_exceptions.md R264, R267): NMI before IRQ before the instruction. -/
def State.selection (s : State) : Selection :=
  if s.nmiPending then .nmi else if s.irqSelected then .irq else .instruction

/-- The state after the boundary test: its slack is used up and two free bits are drawn if there was
any. -/
def State.boundary (s : State) : State :=
  if s.slackI.isSome || s.slackLine.isSome then
    { s.clearSlack with draws := s.draws + 2 }
  else s

/-- NMI entry (60_exceptions.md R272). -/
def takeNmi (s : State) : Result :=
  takeTrap nmiVector s.pc false { s with nmiPending := false }

/-- IRQ entry (60_exceptions.md R271). -/
def takeIrq (s : State) : Result := takeTrap irqVector s.pc false s

/-- `n` bytes from address `a` upwards, each by one access (20_memory.md R43, R60). -/
def readBytes : Nat → Word → State → List Byte × State
  | 0, _, s => ([], s)
  | n + 1, a, s =>
    let b := readAt a s
    let r := readBytes n (a + 1#16) b.2
    (b.1 :: r.1, r.2)

/-- `n` consecutive addresses from `a` upwards. -/
def addrsFrom : Nat → Word → List Word
  | 0, _ => []
  | n + 1, a => a :: addrsFrom n (a + 1#16)

/-- What a fetch answers. -/
inductive Fetched where
  | instr (i : Instr) (s : State)
  | refused (r : Refusal)
  deriving DecidableEq, Repr

/-- The fetch (60_exceptions.md R281, 20_memory.md R60): the opcode, then the operand bytes its length
asks for. An undocumented opcode is refused (30_encoding.md R86), and so is an instruction byte on the PIA
(20_memory.md R61). PC is not changed. -/
def fetch (s : State) : Fetched :=
  if s.platform.isPia s.pc then .refused (.deviceUnsafe s.pc)
  else
    let op := readAt s.pc s
    match opcodeLength op.1 with
    | none => .refused (.undocumentedOpcode op.1)
    | some len =>
      match (addrsFrom (len - 1) (s.pc + 1#16)).find? s.platform.isPia with
      | some a => .refused (.deviceUnsafe a)
      | none =>
        let rest := readBytes (len - 1) (s.pc + 1#16) op.2
        match decode (op.1 :: rest.1) with
        | .ok r => .instr r.1 rest.2
        | .error _ => .refused (.undocumentedOpcode op.1)

end Sys2Proof.Machine
end

