-- ==== Sys2Proof/Machine/Operands.lean ====
section
/-! DEFINITION. The addressing modes with a memory operand (40_addressing_modes.md), which of their
addresses 20_memory.md R61 keeps off the PIA, and the shared shapes of the instructions: read an operand,
store a byte, read-modify-write, operate on a register, branch, push, pull. -/

namespace Sys2Proof.Machine

/-- The addressing modes that have an effective address (40_addressing_modes.md R100). -/
inductive MemMode where
  | zp (n : Byte)
  | zpx (n : Byte)
  | zpy (n : Byte)
  | abs (nn : Word)
  | abx (nn : Word)
  | aby (nn : Word)
  | izx (n : Byte)
  | izy (n : Byte)
  | izp (n : Byte)
  deriving DecidableEq, Repr

/-- Where an instruction reads its operand: the instruction itself (R102) or memory. -/
inductive Source where
  | imm (n : Byte)
  | mem (m : MemMode)
  deriving DecidableEq, Repr

/-- A pointer in page 0: both bytes lie there, `p + 1` wraps (40_addressing_modes.md R111, R112, R115). -/
def zeroPagePointer (p : Byte) (s : State) : Word × State :=
  let lo := readAt (zext p) s
  let hi := readAt (zext (p + 1#8)) lo.2
  (wordOf hi.1 lo.1, hi.2)

/-- `EA_<mode>` with the state after the pointer bytes are read (40_addressing_modes.md R103 to R115). -/
def MemMode.address (m : MemMode) (s : State) : Word × State :=
  match m with
  | .zp n => (zext n, s)
  | .zpx n => (zext (n + s.x), s)
  | .zpy n => (zext (n + s.y), s)
  | .abs nn => (nn, s)
  | .abx nn => (nn + zext s.x, s)
  | .aby nn => (nn + zext s.y, s)
  | .izx n => zeroPagePointer (n + s.x) s
  | .izy n =>
    let r := zeroPagePointer n s
    (r.1 + zext s.y, r.2)
  | .izp n => zeroPagePointer n s

/-- The addresses of the pointer bytes a mode reads. -/
def MemMode.pointers (m : MemMode) (s : State) : List Word :=
  match m with
  | .zp _ => []
  | .zpx _ => []
  | .zpy _ => []
  | .abs _ => []
  | .abx _ => []
  | .aby _ => []
  | .izx n => [zext (n + s.x), zext (n + s.x + 1#8)]
  | .izy n => [zext n, zext (n + 1#8)]
  | .izp n => [zext n, zext (n + 1#8)]

/-- Every address a mode touches: its pointer bytes and the effective address. -/
def MemMode.touched (m : MemMode) (s : State) : List Word := m.pointers s ++ [(m.address s).1]

/-- What a load, store, compare or logic instruction touches in a way 20_memory.md R61 does not admit on
the PIA: nothing in the zero page and absolute modes, every address in the others. -/
def MemMode.deviceTouched (m : MemMode) (s : State) : List Word :=
  match m with
  | .zp _ => []
  | .abs _ => []
  | .zpx n => (MemMode.zpx n).touched s
  | .zpy n => (MemMode.zpy n).touched s
  | .abx nn => (MemMode.abx nn).touched s
  | .aby nn => (MemMode.aby nn).touched s
  | .izx n => (MemMode.izx n).touched s
  | .izy n => (MemMode.izy n).touched s
  | .izp n => (MemMode.izp n).touched s

/-- The length of an instruction in this mode (30_encoding.md R71). -/
def MemMode.length : MemMode → Nat
  | .zp _ => 2
  | .zpx _ => 2
  | .zpy _ => 2
  | .abs _ => 3
  | .abx _ => 3
  | .aby _ => 3
  | .izx _ => 2
  | .izy _ => 2
  | .izp _ => 2

/-- `Load(f)` (40_addressing_modes.md R116): the operand and the state after its accesses. -/
def Source.load (o : Source) (s : State) : Byte × State :=
  match o with
  | .imm n => (n, s)
  | .mem m => readAt (m.address s).1 (m.address s).2

/-- `MemMode.deviceTouched` of an operand; an immediate touches nothing. -/
def Source.deviceTouched (o : Source) (s : State) : List Word :=
  match o with
  | .imm _ => []
  | .mem m => m.deviceTouched s

/-- The length of an instruction with this operand (30_encoding.md R71). -/
def Source.length : Source → Nat
  | .imm _ => 2
  | .mem m => m.length

/-- An instruction that reads an operand and then works on registers and flags. -/
def readThen (o : Source) (effect : Byte → State → State) (s : State) : Result :=
  guarded s (o.deviceTouched s) ((effect (o.load s).1 (o.load s).2).advance o.length)

/-- An instruction that stores one byte: `Store(f, v)` (40_addressing_modes.md R116). -/
def storeByte (m : MemMode) (v : Byte) (s : State) : Result :=
  guarded s (m.deviceTouched s) ((writeAt (m.address s).1 v (m.address s).2).advance m.length)

/-- The state after a read-modify-write of address `a`: one read, one write (20_memory.md R50). -/
def modifyAt (a : Word) (f : Byte → Flags → Byte × Flags) (s : State) : State :=
  let r := readAt a s
  let w := f r.1 r.2.p
  { writeAt a w.1 r.2 with p := w.2 }

/-- A read-modify-write instruction (43_shift_incdec.md R180); none is admitted on the PIA. -/
def modify (m : MemMode) (f : Byte → Flags → Byte × Flags) (s : State) : Result :=
  guarded s (m.touched s) ((modifyAt (m.address s).1 f (m.address s).2).advance m.length)

/-- `PC <- (pc0 + 2 + sext_16(b1)) mod 65536` (40_addressing_modes.md R110). -/
def branchTarget (pc : Word) (offset : Byte) : Word := pc + 2#16 + sext offset

/-- A branch (44_branch_jump.md R210). -/
def branchIf (cond : Bool) (offset : Byte) (s : State) : Result :=
  .next (if cond then { s with pc := branchTarget s.pc offset } else s.advance 2)

/-- JMP through the word at `p` (40_addressing_modes.md R113, R114). -/
def jumpVia (p : Word) (s : State) : Result :=
  let w := readWord p s
  guarded s [p, p + 1#16] { w.2 with pc := w.1 }

/-- An instruction that pushes one byte (45_stack_flag_system.md R231 to R234). -/
def pushThen (v : Byte) (s : State) : Result :=
  guarded s (pushAddrs s.sp 1) ((push v s).advance 1)

/-- An instruction that pulls one byte (45_stack_flag_system.md R235 to R238). -/
def pullThen (effect : Byte → State → State) (s : State) : Result :=
  guarded s (pullAddrs s.sp 1) ((effect (pull s).1 (pull s).2).advance 1)

/-- A one-byte instruction that works on registers and flags only (40_addressing_modes.md R101, R109). -/
def implied (t : State) : Result := .next (t.advance 1)

end Sys2Proof.Machine
end

