-- ==== Sys2Proof/Machine/Registers.lean ====
section
/-! DEFINITION. The shared effects on registers and flags: a register load with N and Z, the load of P, and
addition and subtraction with their free values. -/

namespace Sys2Proof.Machine

/-- A is loaded; N and Z follow the value (41_load_store_transfer.md R121). -/
def loadA (v : Byte) (s : State) : State := { s with a := v, p := Flags.setNZ s.p v }

/-- X is loaded; N and Z follow the value (41_load_store_transfer.md R122). -/
def loadX (v : Byte) (s : State) : State := { s with x := v, p := Flags.setNZ s.p v }

/-- Y is loaded; N and Z follow the value (41_load_store_transfer.md R123). -/
def loadY (v : Byte) (s : State) : State := { s with y := v, p := Flags.setNZ s.p v }

/-- `setP(v)` by PLP (45_stack_flag_system.md R236): the old I may still hold at the next boundary. -/
def loadP (v : Byte) (s : State) : State := State.noteI s.p.i { s with p := Flags.ofByte v }

/-- ADC and SBC (42_arithmetic_logic.md R151 to R154): `binary` where D is 0, else `decimal` with a free V,
and A, N, V, Z, C free where a digit of A or of the operand is above 9. -/
def addSub (binary : Byte → Byte → Flags → Byte × Flags)
    (decimal : Byte → Byte → Flags → Bool → Byte × Flags) (m : Byte) (s : State) : State :=
  if s.p.d = false then
    let r := binary s.a m s.p
    { s with a := r.1, p := r.2 }
  else if bcdValid s.a && bcdValid m then
    let r := decimal s.a m s.p (Config.freeBit s.draws)
    { s with a := r.1, p := r.2, draws := s.draws + 1 }
  else
    let k := s.draws
    { s with
      a := Config.freeByte k
      p := { s.p with n := Config.freeBit k, v := Config.freeBit (k + 1), z := Config.freeBit (k + 2),
                      c := Config.freeBit (k + 3) }
      draws := k + 4 }

end Sys2Proof.Machine
end

