-- ==== Sys2Proof/Machine/Arithmetic.lean ====
section
/-! DEFINITION. Add, subtract, logic, compare and bit tests: the meaning of each instruction (42_arithmetic_logic.md). -/

namespace Sys2Proof.Machine

/-- ADC (42_arithmetic_logic.md R151, R152): binary, or packed BCD where D is 1. In decimal mode V is free,
and where a digit is above 9 A, N, V, Z and C are free. -/
def adc (m : Byte) (s : State) : State :=
  addSub addBinary addDecimal m s

/-- SBC (42_arithmetic_logic.md R153, R154), with the same free values as ADC. -/
def sbc (m : Byte) (s : State) : State :=
  addSub subBinary subDecimal m s

/-- AND (42_arithmetic_logic.md R155). -/
def andA (m : Byte) (s : State) : State := loadA (s.a &&& m) s

/-- ORA (42_arithmetic_logic.md R156). -/
def oraA (m : Byte) (s : State) : State := loadA (s.a ||| m) s

/-- EOR (42_arithmetic_logic.md R157). -/
def eorA (m : Byte) (s : State) : State := loadA (s.a ^^^ m) s

/-- CMP (42_arithmetic_logic.md R158): no register changes. -/
def cmpA (m : Byte) (s : State) : State := { s with p := compareFlags s.a m s.p }

/-- CPX (42_arithmetic_logic.md R159). -/
def cmpX (m : Byte) (s : State) : State := { s with p := compareFlags s.x m s.p }

/-- CPY (42_arithmetic_logic.md R160). -/
def cmpY (m : Byte) (s : State) : State := { s with p := compareFlags s.y m s.p }

/-- BIT (42_arithmetic_logic.md R165): A does not change. -/
def bitTest (m : Byte) (s : State) : State := { s with p := bitTestFlags s.a m s.p }

/-- TSB (42_arithmetic_logic.md R166): Z of the AND, the bits of A set. -/
def testSet (a m : Byte) (p : Flags) : Byte × Flags := (m ||| a, testZ a m p)

/-- TRB (42_arithmetic_logic.md R167): Z of the AND, the bits of A reset. -/
def testReset (a m : Byte) (p : Flags) : Byte × Flags := (m &&& (a ^^^ 0xFF#8), testZ a m p)

/-- ADC imm, opcode 69 (42_arithmetic_logic.md R151; 40_addressing_modes.md R102). -/
def execAdcImm (n : Byte) (s : State) : Result := readThen (.imm n) adc s

/-- ADC zp, opcode 65 (42_arithmetic_logic.md R151; 40_addressing_modes.md R104). -/
def execAdcZp (n : Byte) (s : State) : Result := readThen (.mem (.zp n)) adc s

/-- ADC zpx, opcode 75 (42_arithmetic_logic.md R151; 40_addressing_modes.md R105). -/
def execAdcZpx (n : Byte) (s : State) : Result := readThen (.mem (.zpx n)) adc s

/-- ADC abs, opcode 6D (42_arithmetic_logic.md R151; 40_addressing_modes.md R103). -/
def execAdcAbs (nn : Word) (s : State) : Result := readThen (.mem (.abs nn)) adc s

/-- ADC abx, opcode 7D (42_arithmetic_logic.md R151; 40_addressing_modes.md R107). -/
def execAdcAbx (nn : Word) (s : State) : Result := readThen (.mem (.abx nn)) adc s

/-- ADC aby, opcode 79 (42_arithmetic_logic.md R151; 40_addressing_modes.md R108). -/
def execAdcAby (nn : Word) (s : State) : Result := readThen (.mem (.aby nn)) adc s

/-- ADC izx, opcode 61 (42_arithmetic_logic.md R151; 40_addressing_modes.md R111). -/
def execAdcIzx (n : Byte) (s : State) : Result := readThen (.mem (.izx n)) adc s

/-- ADC izy, opcode 71 (42_arithmetic_logic.md R151; 40_addressing_modes.md R112). -/
def execAdcIzy (n : Byte) (s : State) : Result := readThen (.mem (.izy n)) adc s

/-- ADC izp, opcode 72 (42_arithmetic_logic.md R151; 40_addressing_modes.md R115). -/
def execAdcIzp (n : Byte) (s : State) : Result := readThen (.mem (.izp n)) adc s

/-- SBC imm, opcode E9 (42_arithmetic_logic.md R153; 40_addressing_modes.md R102). -/
def execSbcImm (n : Byte) (s : State) : Result := readThen (.imm n) sbc s

/-- SBC zp, opcode E5 (42_arithmetic_logic.md R153; 40_addressing_modes.md R104). -/
def execSbcZp (n : Byte) (s : State) : Result := readThen (.mem (.zp n)) sbc s

/-- SBC zpx, opcode F5 (42_arithmetic_logic.md R153; 40_addressing_modes.md R105). -/
def execSbcZpx (n : Byte) (s : State) : Result := readThen (.mem (.zpx n)) sbc s

/-- SBC abs, opcode ED (42_arithmetic_logic.md R153; 40_addressing_modes.md R103). -/
def execSbcAbs (nn : Word) (s : State) : Result := readThen (.mem (.abs nn)) sbc s

/-- SBC abx, opcode FD (42_arithmetic_logic.md R153; 40_addressing_modes.md R107). -/
def execSbcAbx (nn : Word) (s : State) : Result := readThen (.mem (.abx nn)) sbc s

/-- SBC aby, opcode F9 (42_arithmetic_logic.md R153; 40_addressing_modes.md R108). -/
def execSbcAby (nn : Word) (s : State) : Result := readThen (.mem (.aby nn)) sbc s

/-- SBC izx, opcode E1 (42_arithmetic_logic.md R153; 40_addressing_modes.md R111). -/
def execSbcIzx (n : Byte) (s : State) : Result := readThen (.mem (.izx n)) sbc s

/-- SBC izy, opcode F1 (42_arithmetic_logic.md R153; 40_addressing_modes.md R112). -/
def execSbcIzy (n : Byte) (s : State) : Result := readThen (.mem (.izy n)) sbc s

/-- SBC izp, opcode F2 (42_arithmetic_logic.md R153; 40_addressing_modes.md R115). -/
def execSbcIzp (n : Byte) (s : State) : Result := readThen (.mem (.izp n)) sbc s

/-- AND imm, opcode 29 (42_arithmetic_logic.md R155; 40_addressing_modes.md R102). -/
def execAndImm (n : Byte) (s : State) : Result := readThen (.imm n) andA s

/-- AND zp, opcode 25 (42_arithmetic_logic.md R155; 40_addressing_modes.md R104). -/
def execAndZp (n : Byte) (s : State) : Result := readThen (.mem (.zp n)) andA s

/-- AND zpx, opcode 35 (42_arithmetic_logic.md R155; 40_addressing_modes.md R105). -/
def execAndZpx (n : Byte) (s : State) : Result := readThen (.mem (.zpx n)) andA s

/-- AND abs, opcode 2D (42_arithmetic_logic.md R155; 40_addressing_modes.md R103). -/
def execAndAbs (nn : Word) (s : State) : Result := readThen (.mem (.abs nn)) andA s

/-- AND abx, opcode 3D (42_arithmetic_logic.md R155; 40_addressing_modes.md R107). -/
def execAndAbx (nn : Word) (s : State) : Result := readThen (.mem (.abx nn)) andA s

/-- AND aby, opcode 39 (42_arithmetic_logic.md R155; 40_addressing_modes.md R108). -/
def execAndAby (nn : Word) (s : State) : Result := readThen (.mem (.aby nn)) andA s

/-- AND izx, opcode 21 (42_arithmetic_logic.md R155; 40_addressing_modes.md R111). -/
def execAndIzx (n : Byte) (s : State) : Result := readThen (.mem (.izx n)) andA s

/-- AND izy, opcode 31 (42_arithmetic_logic.md R155; 40_addressing_modes.md R112). -/
def execAndIzy (n : Byte) (s : State) : Result := readThen (.mem (.izy n)) andA s

/-- AND izp, opcode 32 (42_arithmetic_logic.md R155; 40_addressing_modes.md R115). -/
def execAndIzp (n : Byte) (s : State) : Result := readThen (.mem (.izp n)) andA s

/-- ORA imm, opcode 09 (42_arithmetic_logic.md R156; 40_addressing_modes.md R102). -/
def execOraImm (n : Byte) (s : State) : Result := readThen (.imm n) oraA s

/-- ORA zp, opcode 05 (42_arithmetic_logic.md R156; 40_addressing_modes.md R104). -/
def execOraZp (n : Byte) (s : State) : Result := readThen (.mem (.zp n)) oraA s

/-- ORA zpx, opcode 15 (42_arithmetic_logic.md R156; 40_addressing_modes.md R105). -/
def execOraZpx (n : Byte) (s : State) : Result := readThen (.mem (.zpx n)) oraA s

/-- ORA abs, opcode 0D (42_arithmetic_logic.md R156; 40_addressing_modes.md R103). -/
def execOraAbs (nn : Word) (s : State) : Result := readThen (.mem (.abs nn)) oraA s

/-- ORA abx, opcode 1D (42_arithmetic_logic.md R156; 40_addressing_modes.md R107). -/
def execOraAbx (nn : Word) (s : State) : Result := readThen (.mem (.abx nn)) oraA s

/-- ORA aby, opcode 19 (42_arithmetic_logic.md R156; 40_addressing_modes.md R108). -/
def execOraAby (nn : Word) (s : State) : Result := readThen (.mem (.aby nn)) oraA s

/-- ORA izx, opcode 01 (42_arithmetic_logic.md R156; 40_addressing_modes.md R111). -/
def execOraIzx (n : Byte) (s : State) : Result := readThen (.mem (.izx n)) oraA s

/-- ORA izy, opcode 11 (42_arithmetic_logic.md R156; 40_addressing_modes.md R112). -/
def execOraIzy (n : Byte) (s : State) : Result := readThen (.mem (.izy n)) oraA s

/-- ORA izp, opcode 12 (42_arithmetic_logic.md R156; 40_addressing_modes.md R115). -/
def execOraIzp (n : Byte) (s : State) : Result := readThen (.mem (.izp n)) oraA s

/-- EOR imm, opcode 49 (42_arithmetic_logic.md R157; 40_addressing_modes.md R102). -/
def execEorImm (n : Byte) (s : State) : Result := readThen (.imm n) eorA s

/-- EOR zp, opcode 45 (42_arithmetic_logic.md R157; 40_addressing_modes.md R104). -/
def execEorZp (n : Byte) (s : State) : Result := readThen (.mem (.zp n)) eorA s

/-- EOR zpx, opcode 55 (42_arithmetic_logic.md R157; 40_addressing_modes.md R105). -/
def execEorZpx (n : Byte) (s : State) : Result := readThen (.mem (.zpx n)) eorA s

/-- EOR abs, opcode 4D (42_arithmetic_logic.md R157; 40_addressing_modes.md R103). -/
def execEorAbs (nn : Word) (s : State) : Result := readThen (.mem (.abs nn)) eorA s

/-- EOR abx, opcode 5D (42_arithmetic_logic.md R157; 40_addressing_modes.md R107). -/
def execEorAbx (nn : Word) (s : State) : Result := readThen (.mem (.abx nn)) eorA s

/-- EOR aby, opcode 59 (42_arithmetic_logic.md R157; 40_addressing_modes.md R108). -/
def execEorAby (nn : Word) (s : State) : Result := readThen (.mem (.aby nn)) eorA s

/-- EOR izx, opcode 41 (42_arithmetic_logic.md R157; 40_addressing_modes.md R111). -/
def execEorIzx (n : Byte) (s : State) : Result := readThen (.mem (.izx n)) eorA s

/-- EOR izy, opcode 51 (42_arithmetic_logic.md R157; 40_addressing_modes.md R112). -/
def execEorIzy (n : Byte) (s : State) : Result := readThen (.mem (.izy n)) eorA s

/-- EOR izp, opcode 52 (42_arithmetic_logic.md R157; 40_addressing_modes.md R115). -/
def execEorIzp (n : Byte) (s : State) : Result := readThen (.mem (.izp n)) eorA s

/-- CMP imm, opcode C9 (42_arithmetic_logic.md R158; 40_addressing_modes.md R102). -/
def execCmpImm (n : Byte) (s : State) : Result := readThen (.imm n) cmpA s

/-- CMP zp, opcode C5 (42_arithmetic_logic.md R158; 40_addressing_modes.md R104). -/
def execCmpZp (n : Byte) (s : State) : Result := readThen (.mem (.zp n)) cmpA s

/-- CMP zpx, opcode D5 (42_arithmetic_logic.md R158; 40_addressing_modes.md R105). -/
def execCmpZpx (n : Byte) (s : State) : Result := readThen (.mem (.zpx n)) cmpA s

/-- CMP abs, opcode CD (42_arithmetic_logic.md R158; 40_addressing_modes.md R103). -/
def execCmpAbs (nn : Word) (s : State) : Result := readThen (.mem (.abs nn)) cmpA s

/-- CMP abx, opcode DD (42_arithmetic_logic.md R158; 40_addressing_modes.md R107). -/
def execCmpAbx (nn : Word) (s : State) : Result := readThen (.mem (.abx nn)) cmpA s

/-- CMP aby, opcode D9 (42_arithmetic_logic.md R158; 40_addressing_modes.md R108). -/
def execCmpAby (nn : Word) (s : State) : Result := readThen (.mem (.aby nn)) cmpA s

/-- CMP izx, opcode C1 (42_arithmetic_logic.md R158; 40_addressing_modes.md R111). -/
def execCmpIzx (n : Byte) (s : State) : Result := readThen (.mem (.izx n)) cmpA s

/-- CMP izy, opcode D1 (42_arithmetic_logic.md R158; 40_addressing_modes.md R112). -/
def execCmpIzy (n : Byte) (s : State) : Result := readThen (.mem (.izy n)) cmpA s

/-- CMP izp, opcode D2 (42_arithmetic_logic.md R158; 40_addressing_modes.md R115). -/
def execCmpIzp (n : Byte) (s : State) : Result := readThen (.mem (.izp n)) cmpA s

/-- CPX imm, opcode E0 (42_arithmetic_logic.md R159; 40_addressing_modes.md R102). -/
def execCpxImm (n : Byte) (s : State) : Result := readThen (.imm n) cmpX s

/-- CPX zp, opcode E4 (42_arithmetic_logic.md R159; 40_addressing_modes.md R104). -/
def execCpxZp (n : Byte) (s : State) : Result := readThen (.mem (.zp n)) cmpX s

/-- CPX abs, opcode EC (42_arithmetic_logic.md R159; 40_addressing_modes.md R103). -/
def execCpxAbs (nn : Word) (s : State) : Result := readThen (.mem (.abs nn)) cmpX s

/-- CPY imm, opcode C0 (42_arithmetic_logic.md R160; 40_addressing_modes.md R102). -/
def execCpyImm (n : Byte) (s : State) : Result := readThen (.imm n) cmpY s

/-- CPY zp, opcode C4 (42_arithmetic_logic.md R160; 40_addressing_modes.md R104). -/
def execCpyZp (n : Byte) (s : State) : Result := readThen (.mem (.zp n)) cmpY s

/-- CPY abs, opcode CC (42_arithmetic_logic.md R160; 40_addressing_modes.md R103). -/
def execCpyAbs (nn : Word) (s : State) : Result := readThen (.mem (.abs nn)) cmpY s

/-- BIT zp, opcode 24 (42_arithmetic_logic.md R165; 40_addressing_modes.md R104). -/
def execBitZp (n : Byte) (s : State) : Result := readThen (.mem (.zp n)) bitTest s

/-- BIT abs, opcode 2C (42_arithmetic_logic.md R165; 40_addressing_modes.md R103). -/
def execBitAbs (nn : Word) (s : State) : Result := readThen (.mem (.abs nn)) bitTest s

/-- TSB zp, opcode 04 (42_arithmetic_logic.md R166; 40_addressing_modes.md R104). -/
def execTsbZp (n : Byte) (s : State) : Result := modify (.zp n) (testSet s.a) s

/-- TSB abs, opcode 0C (42_arithmetic_logic.md R166; 40_addressing_modes.md R103). -/
def execTsbAbs (nn : Word) (s : State) : Result := modify (.abs nn) (testSet s.a) s

/-- TRB zp, opcode 14 (42_arithmetic_logic.md R167; 40_addressing_modes.md R104). -/
def execTrbZp (n : Byte) (s : State) : Result := modify (.zp n) (testReset s.a) s

/-- TRB abs, opcode 1C (42_arithmetic_logic.md R167; 40_addressing_modes.md R103). -/
def execTrbAbs (nn : Word) (s : State) : Result := modify (.abs nn) (testReset s.a) s

end Sys2Proof.Machine
end

