-- ==== Sys2Proof/Machine/Branch.lean ====
section
/-! DEFINITION. Branches, jumps and subroutines: the meaning of each instruction (44_branch_jump.md). -/

namespace Sys2Proof.Machine

/-- BCC rel, opcode 90 (44_branch_jump.md R211; 40_addressing_modes.md R110). -/
def execBcc (a : Byte) (s : State) : Result := branchIf (!s.p.c) a s

/-- BCS rel, opcode B0 (44_branch_jump.md R212; 40_addressing_modes.md R110). -/
def execBcs (a : Byte) (s : State) : Result := branchIf s.p.c a s

/-- BEQ rel, opcode F0 (44_branch_jump.md R213; 40_addressing_modes.md R110). -/
def execBeq (a : Byte) (s : State) : Result := branchIf s.p.z a s

/-- BMI rel, opcode 30 (44_branch_jump.md R214; 40_addressing_modes.md R110). -/
def execBmi (a : Byte) (s : State) : Result := branchIf s.p.n a s

/-- BNE rel, opcode D0 (44_branch_jump.md R215; 40_addressing_modes.md R110). -/
def execBne (a : Byte) (s : State) : Result := branchIf (!s.p.z) a s

/-- BPL rel, opcode 10 (44_branch_jump.md R216; 40_addressing_modes.md R110). -/
def execBpl (a : Byte) (s : State) : Result := branchIf (!s.p.n) a s

/-- BVC rel, opcode 50 (44_branch_jump.md R217; 40_addressing_modes.md R110). -/
def execBvc (a : Byte) (s : State) : Result := branchIf (!s.p.v) a s

/-- BVS rel, opcode 70 (44_branch_jump.md R218; 40_addressing_modes.md R110). -/
def execBvs (a : Byte) (s : State) : Result := branchIf s.p.v a s

/-- BRA rel, opcode 80 (44_branch_jump.md R219; 40_addressing_modes.md R110). -/
def execBra (a : Byte) (s : State) : Result := branchIf true a s

/-- JMP abs, opcode 4C (44_branch_jump.md R220; 40_addressing_modes.md R103). -/
def execJmpAbs (nn : Word) (s : State) : Result := .next { s with pc := nn }

/-- JMP ind, opcode 6C (44_branch_jump.md R220; 40_addressing_modes.md R113). -/
def execJmpInd (nn : Word) (s : State) : Result := jumpVia nn s

/-- JMP iax, opcode 7C (44_branch_jump.md R220; 40_addressing_modes.md R114). -/
def execJmpIax (nn : Word) (s : State) : Result := jumpVia (nn + zext s.x) s

/-- JSR abs, opcode 20 (44_branch_jump.md R224; 40_addressing_modes.md R103). -/
def execJsr (nn : Word) (s : State) : Result :=
  guarded s (pushAddrs s.sp 2) { pushWord (s.pc + 2#16) s with pc := nn }

/-- RTS imp, opcode 60 (44_branch_jump.md R225; 40_addressing_modes.md R109). -/
def execRts (s : State) : Result :=
  guarded s (pullAddrs s.sp 2) { (pullWord s).2 with pc := (pullWord s).1 + 1#16 }

end Sys2Proof.Machine
end

