-- ==== Sys2Proof/Machine/LoadStore.lean ====
section
/-! DEFINITION. Loads, stores and register transfers: the meaning of each instruction (41_load_store_transfer.md). -/

namespace Sys2Proof.Machine

/-- LDA imm, opcode A9 (41_load_store_transfer.md R121; 40_addressing_modes.md R102). -/
def execLdaImm (n : Byte) (s : State) : Result := readThen (.imm n) loadA s

/-- LDA zp, opcode A5 (41_load_store_transfer.md R121; 40_addressing_modes.md R104). -/
def execLdaZp (n : Byte) (s : State) : Result := readThen (.mem (.zp n)) loadA s

/-- LDA zpx, opcode B5 (41_load_store_transfer.md R121; 40_addressing_modes.md R105). -/
def execLdaZpx (n : Byte) (s : State) : Result := readThen (.mem (.zpx n)) loadA s

/-- LDA abs, opcode AD (41_load_store_transfer.md R121; 40_addressing_modes.md R103). -/
def execLdaAbs (nn : Word) (s : State) : Result := readThen (.mem (.abs nn)) loadA s

/-- LDA abx, opcode BD (41_load_store_transfer.md R121; 40_addressing_modes.md R107). -/
def execLdaAbx (nn : Word) (s : State) : Result := readThen (.mem (.abx nn)) loadA s

/-- LDA aby, opcode B9 (41_load_store_transfer.md R121; 40_addressing_modes.md R108). -/
def execLdaAby (nn : Word) (s : State) : Result := readThen (.mem (.aby nn)) loadA s

/-- LDA izx, opcode A1 (41_load_store_transfer.md R121; 40_addressing_modes.md R111). -/
def execLdaIzx (n : Byte) (s : State) : Result := readThen (.mem (.izx n)) loadA s

/-- LDA izy, opcode B1 (41_load_store_transfer.md R121; 40_addressing_modes.md R112). -/
def execLdaIzy (n : Byte) (s : State) : Result := readThen (.mem (.izy n)) loadA s

/-- LDA izp, opcode B2 (41_load_store_transfer.md R121; 40_addressing_modes.md R115). -/
def execLdaIzp (n : Byte) (s : State) : Result := readThen (.mem (.izp n)) loadA s

/-- LDX imm, opcode A2 (41_load_store_transfer.md R122; 40_addressing_modes.md R102). -/
def execLdxImm (n : Byte) (s : State) : Result := readThen (.imm n) loadX s

/-- LDX zp, opcode A6 (41_load_store_transfer.md R122; 40_addressing_modes.md R104). -/
def execLdxZp (n : Byte) (s : State) : Result := readThen (.mem (.zp n)) loadX s

/-- LDX zpy, opcode B6 (41_load_store_transfer.md R122; 40_addressing_modes.md R106). -/
def execLdxZpy (n : Byte) (s : State) : Result := readThen (.mem (.zpy n)) loadX s

/-- LDX abs, opcode AE (41_load_store_transfer.md R122; 40_addressing_modes.md R103). -/
def execLdxAbs (nn : Word) (s : State) : Result := readThen (.mem (.abs nn)) loadX s

/-- LDX aby, opcode BE (41_load_store_transfer.md R122; 40_addressing_modes.md R108). -/
def execLdxAby (nn : Word) (s : State) : Result := readThen (.mem (.aby nn)) loadX s

/-- LDY imm, opcode A0 (41_load_store_transfer.md R123; 40_addressing_modes.md R102). -/
def execLdyImm (n : Byte) (s : State) : Result := readThen (.imm n) loadY s

/-- LDY zp, opcode A4 (41_load_store_transfer.md R123; 40_addressing_modes.md R104). -/
def execLdyZp (n : Byte) (s : State) : Result := readThen (.mem (.zp n)) loadY s

/-- LDY zpx, opcode B4 (41_load_store_transfer.md R123; 40_addressing_modes.md R105). -/
def execLdyZpx (n : Byte) (s : State) : Result := readThen (.mem (.zpx n)) loadY s

/-- LDY abs, opcode AC (41_load_store_transfer.md R123; 40_addressing_modes.md R103). -/
def execLdyAbs (nn : Word) (s : State) : Result := readThen (.mem (.abs nn)) loadY s

/-- LDY abx, opcode BC (41_load_store_transfer.md R123; 40_addressing_modes.md R107). -/
def execLdyAbx (nn : Word) (s : State) : Result := readThen (.mem (.abx nn)) loadY s

/-- STA zp, opcode 85 (41_load_store_transfer.md R124; 40_addressing_modes.md R104). -/
def execStaZp (n : Byte) (s : State) : Result := storeByte (.zp n) s.a s

/-- STA zpx, opcode 95 (41_load_store_transfer.md R124; 40_addressing_modes.md R105). -/
def execStaZpx (n : Byte) (s : State) : Result := storeByte (.zpx n) s.a s

/-- STA abs, opcode 8D (41_load_store_transfer.md R124; 40_addressing_modes.md R103). -/
def execStaAbs (nn : Word) (s : State) : Result := storeByte (.abs nn) s.a s

/-- STA abx, opcode 9D (41_load_store_transfer.md R124; 40_addressing_modes.md R107). -/
def execStaAbx (nn : Word) (s : State) : Result := storeByte (.abx nn) s.a s

/-- STA aby, opcode 99 (41_load_store_transfer.md R124; 40_addressing_modes.md R108). -/
def execStaAby (nn : Word) (s : State) : Result := storeByte (.aby nn) s.a s

/-- STA izx, opcode 81 (41_load_store_transfer.md R124; 40_addressing_modes.md R111). -/
def execStaIzx (n : Byte) (s : State) : Result := storeByte (.izx n) s.a s

/-- STA izy, opcode 91 (41_load_store_transfer.md R124; 40_addressing_modes.md R112). -/
def execStaIzy (n : Byte) (s : State) : Result := storeByte (.izy n) s.a s

/-- STA izp, opcode 92 (41_load_store_transfer.md R124; 40_addressing_modes.md R115). -/
def execStaIzp (n : Byte) (s : State) : Result := storeByte (.izp n) s.a s

/-- STX zp, opcode 86 (41_load_store_transfer.md R125; 40_addressing_modes.md R104). -/
def execStxZp (n : Byte) (s : State) : Result := storeByte (.zp n) s.x s

/-- STX zpy, opcode 96 (41_load_store_transfer.md R125; 40_addressing_modes.md R106). -/
def execStxZpy (n : Byte) (s : State) : Result := storeByte (.zpy n) s.x s

/-- STX abs, opcode 8E (41_load_store_transfer.md R125; 40_addressing_modes.md R103). -/
def execStxAbs (nn : Word) (s : State) : Result := storeByte (.abs nn) s.x s

/-- STY zp, opcode 84 (41_load_store_transfer.md R126; 40_addressing_modes.md R104). -/
def execStyZp (n : Byte) (s : State) : Result := storeByte (.zp n) s.y s

/-- STY zpx, opcode 94 (41_load_store_transfer.md R126; 40_addressing_modes.md R105). -/
def execStyZpx (n : Byte) (s : State) : Result := storeByte (.zpx n) s.y s

/-- STY abs, opcode 8C (41_load_store_transfer.md R126; 40_addressing_modes.md R103). -/
def execStyAbs (nn : Word) (s : State) : Result := storeByte (.abs nn) s.y s

/-- STZ zp, opcode 64 (41_load_store_transfer.md R127; 40_addressing_modes.md R104). -/
def execStzZp (n : Byte) (s : State) : Result := storeByte (.zp n) 0x00#8 s

/-- STZ zpx, opcode 74 (41_load_store_transfer.md R127; 40_addressing_modes.md R105). -/
def execStzZpx (n : Byte) (s : State) : Result := storeByte (.zpx n) 0x00#8 s

/-- STZ abs, opcode 9C (41_load_store_transfer.md R127; 40_addressing_modes.md R103). -/
def execStzAbs (nn : Word) (s : State) : Result := storeByte (.abs nn) 0x00#8 s

/-- STZ abx, opcode 9E (41_load_store_transfer.md R127; 40_addressing_modes.md R107). -/
def execStzAbx (nn : Word) (s : State) : Result := storeByte (.abx nn) 0x00#8 s

/-- TAX imp, opcode AA (41_load_store_transfer.md R128; 40_addressing_modes.md R109). -/
def execTax (s : State) : Result := implied (loadX s.a s)

/-- TAY imp, opcode A8 (41_load_store_transfer.md R129; 40_addressing_modes.md R109). -/
def execTay (s : State) : Result := implied (loadY s.a s)

/-- TSX imp, opcode BA (41_load_store_transfer.md R130; 40_addressing_modes.md R109). -/
def execTsx (s : State) : Result := implied (loadX s.sp s)

/-- TXA imp, opcode 8A (41_load_store_transfer.md R131; 40_addressing_modes.md R109). -/
def execTxa (s : State) : Result := implied (loadA s.x s)

/-- TXS imp, opcode 9A (41_load_store_transfer.md R132; 40_addressing_modes.md R109). -/
def execTxs (s : State) : Result := implied { s with sp := s.x }

/-- TYA imp, opcode 98 (41_load_store_transfer.md R133; 40_addressing_modes.md R109). -/
def execTya (s : State) : Result := implied (loadA s.y s)

end Sys2Proof.Machine
end

