-- ==== Sys2Proof/Machine/Shift.lean ====
section
/-! DEFINITION. Shifts, rotates, increments and decrements: the meaning of each instruction (43_shift_incdec.md). -/

namespace Sys2Proof.Machine

/-- An operation on the accumulator (40_addressing_modes.md R101). -/
def onA (f : Byte → Flags → Byte × Flags) (s : State) : State :=
  { s with a := (f s.a s.p).1, p := (f s.a s.p).2 }

/-- An operation on X. -/
def onX (f : Byte → Flags → Byte × Flags) (s : State) : State :=
  { s with x := (f s.x s.p).1, p := (f s.x s.p).2 }

/-- An operation on Y. -/
def onY (f : Byte → Flags → Byte × Flags) (s : State) : State :=
  { s with y := (f s.y s.p).1, p := (f s.y s.p).2 }

/-- ASL zp, opcode 06 (43_shift_incdec.md R181; 40_addressing_modes.md R104). -/
def execAslZp (n : Byte) (s : State) : Result := modify (.zp n) shiftLeft s

/-- ASL zpx, opcode 16 (43_shift_incdec.md R181; 40_addressing_modes.md R105). -/
def execAslZpx (n : Byte) (s : State) : Result := modify (.zpx n) shiftLeft s

/-- ASL abs, opcode 0E (43_shift_incdec.md R181; 40_addressing_modes.md R103). -/
def execAslAbs (nn : Word) (s : State) : Result := modify (.abs nn) shiftLeft s

/-- ASL abx, opcode 1E (43_shift_incdec.md R181; 40_addressing_modes.md R107). -/
def execAslAbx (nn : Word) (s : State) : Result := modify (.abx nn) shiftLeft s

/-- ASLA acc, opcode 0A (43_shift_incdec.md R182; 40_addressing_modes.md R101). -/
def execAsla (s : State) : Result := implied (onA shiftLeft s)

/-- LSR zp, opcode 46 (43_shift_incdec.md R183; 40_addressing_modes.md R104). -/
def execLsrZp (n : Byte) (s : State) : Result := modify (.zp n) shiftRight s

/-- LSR zpx, opcode 56 (43_shift_incdec.md R183; 40_addressing_modes.md R105). -/
def execLsrZpx (n : Byte) (s : State) : Result := modify (.zpx n) shiftRight s

/-- LSR abs, opcode 4E (43_shift_incdec.md R183; 40_addressing_modes.md R103). -/
def execLsrAbs (nn : Word) (s : State) : Result := modify (.abs nn) shiftRight s

/-- LSR abx, opcode 5E (43_shift_incdec.md R183; 40_addressing_modes.md R107). -/
def execLsrAbx (nn : Word) (s : State) : Result := modify (.abx nn) shiftRight s

/-- LSRA acc, opcode 4A (43_shift_incdec.md R184; 40_addressing_modes.md R101). -/
def execLsra (s : State) : Result := implied (onA shiftRight s)

/-- ROL zp, opcode 26 (43_shift_incdec.md R185; 40_addressing_modes.md R104). -/
def execRolZp (n : Byte) (s : State) : Result := modify (.zp n) rotateLeft s

/-- ROL zpx, opcode 36 (43_shift_incdec.md R185; 40_addressing_modes.md R105). -/
def execRolZpx (n : Byte) (s : State) : Result := modify (.zpx n) rotateLeft s

/-- ROL abs, opcode 2E (43_shift_incdec.md R185; 40_addressing_modes.md R103). -/
def execRolAbs (nn : Word) (s : State) : Result := modify (.abs nn) rotateLeft s

/-- ROL abx, opcode 3E (43_shift_incdec.md R185; 40_addressing_modes.md R107). -/
def execRolAbx (nn : Word) (s : State) : Result := modify (.abx nn) rotateLeft s

/-- ROLA acc, opcode 2A (43_shift_incdec.md R186; 40_addressing_modes.md R101). -/
def execRola (s : State) : Result := implied (onA rotateLeft s)

/-- ROR zp, opcode 66 (43_shift_incdec.md R187; 40_addressing_modes.md R104). -/
def execRorZp (n : Byte) (s : State) : Result := modify (.zp n) rotateRight s

/-- ROR zpx, opcode 76 (43_shift_incdec.md R187; 40_addressing_modes.md R105). -/
def execRorZpx (n : Byte) (s : State) : Result := modify (.zpx n) rotateRight s

/-- ROR abs, opcode 6E (43_shift_incdec.md R187; 40_addressing_modes.md R103). -/
def execRorAbs (nn : Word) (s : State) : Result := modify (.abs nn) rotateRight s

/-- ROR abx, opcode 7E (43_shift_incdec.md R187; 40_addressing_modes.md R107). -/
def execRorAbx (nn : Word) (s : State) : Result := modify (.abx nn) rotateRight s

/-- RORA acc, opcode 6A (43_shift_incdec.md R188; 40_addressing_modes.md R101). -/
def execRora (s : State) : Result := implied (onA rotateRight s)

/-- INC zp, opcode E6 (43_shift_incdec.md R189; 40_addressing_modes.md R104). -/
def execIncZp (n : Byte) (s : State) : Result := modify (.zp n) increment s

/-- INC zpx, opcode F6 (43_shift_incdec.md R189; 40_addressing_modes.md R105). -/
def execIncZpx (n : Byte) (s : State) : Result := modify (.zpx n) increment s

/-- INC abs, opcode EE (43_shift_incdec.md R189; 40_addressing_modes.md R103). -/
def execIncAbs (nn : Word) (s : State) : Result := modify (.abs nn) increment s

/-- INC abx, opcode FE (43_shift_incdec.md R189; 40_addressing_modes.md R107). -/
def execIncAbx (nn : Word) (s : State) : Result := modify (.abx nn) increment s

/-- DEC zp, opcode C6 (43_shift_incdec.md R190; 40_addressing_modes.md R104). -/
def execDecZp (n : Byte) (s : State) : Result := modify (.zp n) decrement s

/-- DEC zpx, opcode D6 (43_shift_incdec.md R190; 40_addressing_modes.md R105). -/
def execDecZpx (n : Byte) (s : State) : Result := modify (.zpx n) decrement s

/-- DEC abs, opcode CE (43_shift_incdec.md R190; 40_addressing_modes.md R103). -/
def execDecAbs (nn : Word) (s : State) : Result := modify (.abs nn) decrement s

/-- DEC abx, opcode DE (43_shift_incdec.md R190; 40_addressing_modes.md R107). -/
def execDecAbx (nn : Word) (s : State) : Result := modify (.abx nn) decrement s

/-- INA acc, opcode 1A (43_shift_incdec.md R191; 40_addressing_modes.md R101). -/
def execIna (s : State) : Result := implied (onA increment s)

/-- DEA acc, opcode 3A (43_shift_incdec.md R192; 40_addressing_modes.md R101). -/
def execDea (s : State) : Result := implied (onA decrement s)

/-- INX imp, opcode E8 (43_shift_incdec.md R193; 40_addressing_modes.md R109). -/
def execInx (s : State) : Result := implied (onX increment s)

/-- INY imp, opcode C8 (43_shift_incdec.md R194; 40_addressing_modes.md R109). -/
def execIny (s : State) : Result := implied (onY increment s)

/-- DEX imp, opcode CA (43_shift_incdec.md R195; 40_addressing_modes.md R109). -/
def execDex (s : State) : Result := implied (onX decrement s)

/-- DEY imp, opcode 88 (43_shift_incdec.md R196; 40_addressing_modes.md R109). -/
def execDey (s : State) : Result := implied (onY decrement s)

end Sys2Proof.Machine
end

