-- ==== Sys2Proof/Machine/System.lean ====
section
/-! DEFINITION. Stack, flag and system instructions: the meaning of each instruction (45_stack_flag_system.md). -/

namespace Sys2Proof.Machine

/-- PHA imp, opcode 48 (45_stack_flag_system.md R231; 40_addressing_modes.md R109). -/
def execPha (s : State) : Result := pushThen s.a s

/-- PHP imp, opcode 08 (45_stack_flag_system.md R232; 40_addressing_modes.md R109). -/
def execPhp (s : State) : Result := pushThen (Flags.image s.p true) s

/-- PHX imp, opcode DA (45_stack_flag_system.md R233; 40_addressing_modes.md R109). -/
def execPhx (s : State) : Result := pushThen s.x s

/-- PHY imp, opcode 5A (45_stack_flag_system.md R234; 40_addressing_modes.md R109). -/
def execPhy (s : State) : Result := pushThen s.y s

/-- PLA imp, opcode 68 (45_stack_flag_system.md R235; 40_addressing_modes.md R109). -/
def execPla (s : State) : Result := pullThen loadA s

/-- PLP imp, opcode 28 (45_stack_flag_system.md R236; 40_addressing_modes.md R109). -/
def execPlp (s : State) : Result := pullThen loadP s

/-- PLX imp, opcode FA (45_stack_flag_system.md R237; 40_addressing_modes.md R109). -/
def execPlx (s : State) : Result := pullThen loadX s

/-- PLY imp, opcode 7A (45_stack_flag_system.md R238; 40_addressing_modes.md R109). -/
def execPly (s : State) : Result := pullThen loadY s

/-- CLC imp, opcode 18 (45_stack_flag_system.md R239; 40_addressing_modes.md R109). -/
def execClc (s : State) : Result := implied { s with p := { s.p with c := false } }

/-- CLD imp, opcode D8 (45_stack_flag_system.md R240; 40_addressing_modes.md R109). -/
def execCld (s : State) : Result := implied { s with p := { s.p with d := false } }

/-- CLI imp, opcode 58 (45_stack_flag_system.md R241; 40_addressing_modes.md R109). -/
def execCli (s : State) : Result :=
  implied (State.noteI s.p.i { s with p := { s.p with i := false } })

/-- CLV imp, opcode B8 (45_stack_flag_system.md R242; 40_addressing_modes.md R109). -/
def execClv (s : State) : Result := implied { s with p := { s.p with v := false } }

/-- SEC imp, opcode 38 (45_stack_flag_system.md R243; 40_addressing_modes.md R109). -/
def execSec (s : State) : Result := implied { s with p := { s.p with c := true } }

/-- SED imp, opcode F8 (45_stack_flag_system.md R244; 40_addressing_modes.md R109). -/
def execSed (s : State) : Result := implied { s with p := { s.p with d := true } }

/-- SEI imp, opcode 78 (45_stack_flag_system.md R245; 40_addressing_modes.md R109). -/
def execSei (s : State) : Result :=
  implied (State.noteI s.p.i { s with p := { s.p with i := true } })

/-- NOP imp, opcode EA (45_stack_flag_system.md R246; 40_addressing_modes.md R109). -/
def execNop (s : State) : Result := implied s

/-- BRK imp, opcode 00 (45_stack_flag_system.md R247; 40_addressing_modes.md R109). -/
def execBrk (s : State) : Result := takeTrap irqVector (s.pc + 2#16) true s

/-- RTI imp, opcode 40 (45_stack_flag_system.md R248; 40_addressing_modes.md R109). -/
def execRti (s : State) : Result := guarded s (pullAddrs s.sp 3) (returnFromTrap s)

end Sys2Proof.Machine
end

