-- ==== Sys2Proof/Machine/Dispatch.lean ====
section
/-! DEFINITION. One arm per instruction, each one call of its meaning. -/

namespace Sys2Proof.Machine

def exec (i : Instr) (s : State) : Host.Outcome State Fault Refusal :=
  match i with
  -- Loads and stores (41_load_store_transfer.md R121 to R127)
  | .ldaImm n => Sys2Proof.Machine.execLdaImm n s
  | .ldaZp n => Sys2Proof.Machine.execLdaZp n s
  | .ldaZpx n => Sys2Proof.Machine.execLdaZpx n s
  | .ldaAbs nn => Sys2Proof.Machine.execLdaAbs nn s
  | .ldaAbx nn => Sys2Proof.Machine.execLdaAbx nn s
  | .ldaAby nn => Sys2Proof.Machine.execLdaAby nn s
  | .ldaIzx n => Sys2Proof.Machine.execLdaIzx n s
  | .ldaIzy n => Sys2Proof.Machine.execLdaIzy n s
  | .ldaIzp n => Sys2Proof.Machine.execLdaIzp n s
  | .ldxImm n => Sys2Proof.Machine.execLdxImm n s
  | .ldxZp n => Sys2Proof.Machine.execLdxZp n s
  | .ldxZpy n => Sys2Proof.Machine.execLdxZpy n s
  | .ldxAbs nn => Sys2Proof.Machine.execLdxAbs nn s
  | .ldxAby nn => Sys2Proof.Machine.execLdxAby nn s
  | .ldyImm n => Sys2Proof.Machine.execLdyImm n s
  | .ldyZp n => Sys2Proof.Machine.execLdyZp n s
  | .ldyZpx n => Sys2Proof.Machine.execLdyZpx n s
  | .ldyAbs nn => Sys2Proof.Machine.execLdyAbs nn s
  | .ldyAbx nn => Sys2Proof.Machine.execLdyAbx nn s
  | .staZp n => Sys2Proof.Machine.execStaZp n s
  | .staZpx n => Sys2Proof.Machine.execStaZpx n s
  | .staAbs nn => Sys2Proof.Machine.execStaAbs nn s
  | .staAbx nn => Sys2Proof.Machine.execStaAbx nn s
  | .staAby nn => Sys2Proof.Machine.execStaAby nn s
  | .staIzx n => Sys2Proof.Machine.execStaIzx n s
  | .staIzy n => Sys2Proof.Machine.execStaIzy n s
  | .staIzp n => Sys2Proof.Machine.execStaIzp n s
  | .stxZp n => Sys2Proof.Machine.execStxZp n s
  | .stxZpy n => Sys2Proof.Machine.execStxZpy n s
  | .stxAbs nn => Sys2Proof.Machine.execStxAbs nn s
  | .styZp n => Sys2Proof.Machine.execStyZp n s
  | .styZpx n => Sys2Proof.Machine.execStyZpx n s
  | .styAbs nn => Sys2Proof.Machine.execStyAbs nn s
  | .stzZp n => Sys2Proof.Machine.execStzZp n s
  | .stzZpx n => Sys2Proof.Machine.execStzZpx n s
  | .stzAbs nn => Sys2Proof.Machine.execStzAbs nn s
  | .stzAbx nn => Sys2Proof.Machine.execStzAbx nn s
  -- Transfers (41_load_store_transfer.md R128 to R133)
  | .tax => Sys2Proof.Machine.execTax s
  | .tay => Sys2Proof.Machine.execTay s
  | .tsx => Sys2Proof.Machine.execTsx s
  | .txa => Sys2Proof.Machine.execTxa s
  | .txs => Sys2Proof.Machine.execTxs s
  | .tya => Sys2Proof.Machine.execTya s
  -- Arithmetic and logic (42_arithmetic_logic.md R151 to R157)
  | .adcImm n => Sys2Proof.Machine.execAdcImm n s
  | .adcZp n => Sys2Proof.Machine.execAdcZp n s
  | .adcZpx n => Sys2Proof.Machine.execAdcZpx n s
  | .adcAbs nn => Sys2Proof.Machine.execAdcAbs nn s
  | .adcAbx nn => Sys2Proof.Machine.execAdcAbx nn s
  | .adcAby nn => Sys2Proof.Machine.execAdcAby nn s
  | .adcIzx n => Sys2Proof.Machine.execAdcIzx n s
  | .adcIzy n => Sys2Proof.Machine.execAdcIzy n s
  | .adcIzp n => Sys2Proof.Machine.execAdcIzp n s
  | .sbcImm n => Sys2Proof.Machine.execSbcImm n s
  | .sbcZp n => Sys2Proof.Machine.execSbcZp n s
  | .sbcZpx n => Sys2Proof.Machine.execSbcZpx n s
  | .sbcAbs nn => Sys2Proof.Machine.execSbcAbs nn s
  | .sbcAbx nn => Sys2Proof.Machine.execSbcAbx nn s
  | .sbcAby nn => Sys2Proof.Machine.execSbcAby nn s
  | .sbcIzx n => Sys2Proof.Machine.execSbcIzx n s
  | .sbcIzy n => Sys2Proof.Machine.execSbcIzy n s
  | .sbcIzp n => Sys2Proof.Machine.execSbcIzp n s
  | .andImm n => Sys2Proof.Machine.execAndImm n s
  | .andZp n => Sys2Proof.Machine.execAndZp n s
  | .andZpx n => Sys2Proof.Machine.execAndZpx n s
  | .andAbs nn => Sys2Proof.Machine.execAndAbs nn s
  | .andAbx nn => Sys2Proof.Machine.execAndAbx nn s
  | .andAby nn => Sys2Proof.Machine.execAndAby nn s
  | .andIzx n => Sys2Proof.Machine.execAndIzx n s
  | .andIzy n => Sys2Proof.Machine.execAndIzy n s
  | .andIzp n => Sys2Proof.Machine.execAndIzp n s
  | .oraImm n => Sys2Proof.Machine.execOraImm n s
  | .oraZp n => Sys2Proof.Machine.execOraZp n s
  | .oraZpx n => Sys2Proof.Machine.execOraZpx n s
  | .oraAbs nn => Sys2Proof.Machine.execOraAbs nn s
  | .oraAbx nn => Sys2Proof.Machine.execOraAbx nn s
  | .oraAby nn => Sys2Proof.Machine.execOraAby nn s
  | .oraIzx n => Sys2Proof.Machine.execOraIzx n s
  | .oraIzy n => Sys2Proof.Machine.execOraIzy n s
  | .oraIzp n => Sys2Proof.Machine.execOraIzp n s
  | .eorImm n => Sys2Proof.Machine.execEorImm n s
  | .eorZp n => Sys2Proof.Machine.execEorZp n s
  | .eorZpx n => Sys2Proof.Machine.execEorZpx n s
  | .eorAbs nn => Sys2Proof.Machine.execEorAbs nn s
  | .eorAbx nn => Sys2Proof.Machine.execEorAbx nn s
  | .eorAby nn => Sys2Proof.Machine.execEorAby nn s
  | .eorIzx n => Sys2Proof.Machine.execEorIzx n s
  | .eorIzy n => Sys2Proof.Machine.execEorIzy n s
  | .eorIzp n => Sys2Proof.Machine.execEorIzp n s
  -- Compares and bit tests (42_arithmetic_logic.md R158 to R167)
  | .cmpImm n => Sys2Proof.Machine.execCmpImm n s
  | .cmpZp n => Sys2Proof.Machine.execCmpZp n s
  | .cmpZpx n => Sys2Proof.Machine.execCmpZpx n s
  | .cmpAbs nn => Sys2Proof.Machine.execCmpAbs nn s
  | .cmpAbx nn => Sys2Proof.Machine.execCmpAbx nn s
  | .cmpAby nn => Sys2Proof.Machine.execCmpAby nn s
  | .cmpIzx n => Sys2Proof.Machine.execCmpIzx n s
  | .cmpIzy n => Sys2Proof.Machine.execCmpIzy n s
  | .cmpIzp n => Sys2Proof.Machine.execCmpIzp n s
  | .cpxImm n => Sys2Proof.Machine.execCpxImm n s
  | .cpxZp n => Sys2Proof.Machine.execCpxZp n s
  | .cpxAbs nn => Sys2Proof.Machine.execCpxAbs nn s
  | .cpyImm n => Sys2Proof.Machine.execCpyImm n s
  | .cpyZp n => Sys2Proof.Machine.execCpyZp n s
  | .cpyAbs nn => Sys2Proof.Machine.execCpyAbs nn s
  | .bitZp n => Sys2Proof.Machine.execBitZp n s
  | .bitAbs nn => Sys2Proof.Machine.execBitAbs nn s
  | .tsbZp n => Sys2Proof.Machine.execTsbZp n s
  | .tsbAbs nn => Sys2Proof.Machine.execTsbAbs nn s
  | .trbZp n => Sys2Proof.Machine.execTrbZp n s
  | .trbAbs nn => Sys2Proof.Machine.execTrbAbs nn s
  -- Shifts and rotates (43_shift_incdec.md R181 to R188)
  | .aslZp n => Sys2Proof.Machine.execAslZp n s
  | .aslZpx n => Sys2Proof.Machine.execAslZpx n s
  | .aslAbs nn => Sys2Proof.Machine.execAslAbs nn s
  | .aslAbx nn => Sys2Proof.Machine.execAslAbx nn s
  | .asla => Sys2Proof.Machine.execAsla s
  | .lsrZp n => Sys2Proof.Machine.execLsrZp n s
  | .lsrZpx n => Sys2Proof.Machine.execLsrZpx n s
  | .lsrAbs nn => Sys2Proof.Machine.execLsrAbs nn s
  | .lsrAbx nn => Sys2Proof.Machine.execLsrAbx nn s
  | .lsra => Sys2Proof.Machine.execLsra s
  | .rolZp n => Sys2Proof.Machine.execRolZp n s
  | .rolZpx n => Sys2Proof.Machine.execRolZpx n s
  | .rolAbs nn => Sys2Proof.Machine.execRolAbs nn s
  | .rolAbx nn => Sys2Proof.Machine.execRolAbx nn s
  | .rola => Sys2Proof.Machine.execRola s
  | .rorZp n => Sys2Proof.Machine.execRorZp n s
  | .rorZpx n => Sys2Proof.Machine.execRorZpx n s
  | .rorAbs nn => Sys2Proof.Machine.execRorAbs nn s
  | .rorAbx nn => Sys2Proof.Machine.execRorAbx nn s
  | .rora => Sys2Proof.Machine.execRora s
  -- Increments and decrements (43_shift_incdec.md R189 to R196)
  | .incZp n => Sys2Proof.Machine.execIncZp n s
  | .incZpx n => Sys2Proof.Machine.execIncZpx n s
  | .incAbs nn => Sys2Proof.Machine.execIncAbs nn s
  | .incAbx nn => Sys2Proof.Machine.execIncAbx nn s
  | .decZp n => Sys2Proof.Machine.execDecZp n s
  | .decZpx n => Sys2Proof.Machine.execDecZpx n s
  | .decAbs nn => Sys2Proof.Machine.execDecAbs nn s
  | .decAbx nn => Sys2Proof.Machine.execDecAbx nn s
  | .ina => Sys2Proof.Machine.execIna s
  | .dea => Sys2Proof.Machine.execDea s
  | .inx => Sys2Proof.Machine.execInx s
  | .iny => Sys2Proof.Machine.execIny s
  | .dex => Sys2Proof.Machine.execDex s
  | .dey => Sys2Proof.Machine.execDey s
  -- Branches, jumps, subroutines (44_branch_jump.md R211 to R225)
  | .bcc a => Sys2Proof.Machine.execBcc a s
  | .bcs a => Sys2Proof.Machine.execBcs a s
  | .beq a => Sys2Proof.Machine.execBeq a s
  | .bmi a => Sys2Proof.Machine.execBmi a s
  | .bne a => Sys2Proof.Machine.execBne a s
  | .bpl a => Sys2Proof.Machine.execBpl a s
  | .bvc a => Sys2Proof.Machine.execBvc a s
  | .bvs a => Sys2Proof.Machine.execBvs a s
  | .bra a => Sys2Proof.Machine.execBra a s
  | .jmpAbs nn => Sys2Proof.Machine.execJmpAbs nn s
  | .jmpInd nn => Sys2Proof.Machine.execJmpInd nn s
  | .jmpIax nn => Sys2Proof.Machine.execJmpIax nn s
  | .jsr nn => Sys2Proof.Machine.execJsr nn s
  | .rts => Sys2Proof.Machine.execRts s
  -- Stack, flags and system (45_stack_flag_system.md R231 to R248)
  | .pha => Sys2Proof.Machine.execPha s
  | .php => Sys2Proof.Machine.execPhp s
  | .phx => Sys2Proof.Machine.execPhx s
  | .phy => Sys2Proof.Machine.execPhy s
  | .pla => Sys2Proof.Machine.execPla s
  | .plp => Sys2Proof.Machine.execPlp s
  | .plx => Sys2Proof.Machine.execPlx s
  | .ply => Sys2Proof.Machine.execPly s
  | .clc => Sys2Proof.Machine.execClc s
  | .cld => Sys2Proof.Machine.execCld s
  | .cli => Sys2Proof.Machine.execCli s
  | .clv => Sys2Proof.Machine.execClv s
  | .sec => Sys2Proof.Machine.execSec s
  | .sed => Sys2Proof.Machine.execSed s
  | .sei => Sys2Proof.Machine.execSei s
  | .nop => Sys2Proof.Machine.execNop s
  | .brk => Sys2Proof.Machine.execBrk s
  | .rti => Sys2Proof.Machine.execRti s

end Sys2Proof.Machine
end

