-- ==== Sys2Proof/Machine/Environment.lean ====
section
/-! DEFINITION. What the environment does to the machine between CPU steps, and a fall of RES during one
(70_reset_and_hazards.md R351, R370). -/

namespace Sys2Proof.Machine

/-- A change of the CPU's RES input; a rising edge starts the reset (60_exceptions.md R266, R281). -/
def State.changeRes (l : Level) (s : State) : State :=
  match l with
  | .low => { s with resLine := .low }
  | .high =>
    if s.resLine = .low then { s with resLine := .high, resetPending := true } else s

/-- One change the environment makes, before the PIA's reset and the NMI edge are looked at. -/
def applyEnvRaw (e : EnvEvent) (s : State) : State :=
  match e with
  | .res l => s.changeRes l
  | .piaRes l => { s with pia := { s.pia with res := l } }
  | .extIrq b => { s with extIrq := b }
  | .extNmi b => { s with extNmi := b }
  | .port side v => s.updSection side fun q => { q with pins := v }
  | .c1 side l => s.changeC1 side l
  | .c2 side l => s.changeC2 side l

/-- One change the environment makes: the PIA's registers stay zero while its RES is low, and a falling
`nmi_line` is latched (62_pia_r6520.md R337, 60_exceptions.md R265). -/
def applyEnv (e : EnvEvent) (s : State) : State :=
  State.latchNmi s (applyEnvRaw e s).holdPia

/-- The two flags of a control register become free; bit 6 stays 0 while bit 5 is 1
(62_pia_r6520.md R320). -/
def PiaSection.freeFlags (f7 f6 : Bool) (q : PiaSection) : PiaSection :=
  { q with cr := (q.cr &&& 0x3F#8) ||| bitAt f7 7 ||| bitAt (f6 && !bit q.cr 5) 6 }

/-- The flags of one section become free, which may move the interrupt outputs (62_pia_r6520.md R331). -/
def State.freeFlags (side : Side) (s : State) : State :=
  let s1 := s.updSection side
    (PiaSection.freeFlags (Config.freeBit s.draws) (Config.freeBit (s.draws + 1)))
  State.latchNmi s { s1 with draws := s1.draws + 2 }.holdPia

/-- A write that a fall of RES interrupts (70_reset_and_hazards.md R351): the byte addressed is free. On the
PIA that is the register addressed; a control register's flags, which no write can set, are freed too. -/
def tornWrite (a : Word) (s : State) : State :=
  let s1 := busWrite a (Config.freeByte s.draws) { s with draws := s.draws + 1 }
  match s.platform.target a with
  | .pia .controlA => s1.freeFlags .a
  | .pia .controlB => s1.freeFlags .b
  | .pia .dataA => s1
  | .pia .dataB => s1
  | .ram => s1
  | .rom => s1
  | .unmapped => s1

/-- The accesses of a step done again from its start and cut off at a free place (70_reset_and_hazards.md
R351, log 13). While `going` the CPU has not stopped: an access takes place as it was, or the CPU stops before
it, or, if it is a write, in the middle of it. What the DMA agent did stays done. -/
def replay (going : Bool) (events : List BusEvent) (s : State) : State :=
  match events with
  | [] => s
  | .dma a v :: rest => replay going rest (applyDma s (.write a v))
  | .piaRead a :: rest =>
    let s1 := { s with draws := s.draws + 1 }
    if going && Config.freeBit s.draws then replay true rest (busRead a s1).2
    else replay false rest s1
  | .write a v :: rest =>
    let s1 := { s with draws := s.draws + 2 }
    if going && Config.freeBit s.draws then replay true rest (busWrite a v s1)
    else if going && Config.freeBit (s.draws + 1) then replay false rest (tornWrite a s1)
    else replay false rest s1

/-- What a fall of RES leaves of a CPU step under way from `s`, whose trace is empty, given the state `t` the
whole step would reach: every register is free, at most the one byte being written is free, every other byte
of memory survives as the step had left it (70_reset_and_hazards.md R351, log 13), and RES is low. -/
def tear (s t : State) : State :=
  let k := t.draws
  let s1 := { s with
    a := Config.freeByte k
    x := Config.freeByte (k + 1)
    y := Config.freeByte (k + 2)
    sp := Config.freeByte (k + 3)
    pc := wordOf (Config.freeByte (k + 4)) (Config.freeByte (k + 5))
    p := { n := Config.freeBit k, v := Config.freeBit (k + 1), d := Config.freeBit (k + 2),
           i := Config.freeBit (k + 3), z := Config.freeBit (k + 4), c := Config.freeBit (k + 5) }
    dmaTurns := t.dmaTurns
    draws := k + 6 }
  applyEnv (.res .low) (replay true t.trace s1)

end Sys2Proof.Machine
end

