-- ==== Sys2Proof/Machine/Turn.lean ====
section
/-! DEFINITION. The turn of an agent: the CPU step of 60_exceptions.md R281, a CPU step torn by RES, a
change by the environment, a DMA access (70_reset_and_hazards.md R370). -/

namespace Sys2Proof.Machine

/-- The instruction at PC is fetched and executed. -/
def runInstruction (s : State) : Result :=
  match fetch s with
  | .instr i s1 => exec i s1
  | .refused r => .refused r

/-- One step of the CPU (60_exceptions.md R281). -/
def cpuStep (s : State) : Result :=
  if s.resLine = .low then .next s
  else if s.resetPending then takeReset s
  else
    match s.selection with
    | .nmi => takeNmi s.boundary
    | .irq => takeIrq s.boundary
    | .instruction => runInstruction s.boundary

/-- A CPU step during which RES falls (70_reset_and_hazards.md R351); a CPU held by RES does nothing. -/
def tornStep (s : State) : Result :=
  if s.resLine = .low then .next s
  else
    match cpuStep s with
    | .next t => .next (tear s t)
    | .fault f => .fault f
    | .refused r => .refused r

/-- The traces of the step just done are dropped (log 32). -/
def State.clearTrace (s : State) : State := { s with pinEvents := [], trace := [] }

/-- One move of one agent. -/
def act (m : Action) (s : State) : Result :=
  match m with
  | .cpu => cpuStep s
  | .cpuTorn => tornStep s
  | .env e => .next (applyEnv e s)
  | .dma d => .next (applyDma s d)

/-- The agent whose turn it is moves: the first action of the agenda, the CPU where it is empty. -/
def takeTurn (s : State) : Result :=
  match s.agenda with
  | [] => act .cpu s.clearTrace
  | m :: rest => act m { s.clearTrace with agenda := rest }

/-- The bytes of an instruction word stored from `a` upwards, first byte lowest. -/
def storeBytes (m : Memory) (a : Word) : List Byte → Memory
  | [] => m
  | b :: rest => storeBytes (Memory.write m a.toNat b) (a + 1#16) rest

/-- See `State.withFetchWord`. -/
def placeInstruction (s : State) (nbits w : Nat) : State :=
  { s with
    mem := storeBytes s.mem s.pc (wordBytes nbits w)
    agenda := []
    dmaTurns := []
    resLine := .high
    resetPending := false
    nmiPending := false
    slackI := none
    slackLine := none
    p := { s.p with i := s.p.i || s.irqAsserted } }

end Sys2Proof.Machine
end

