-- ==== Sys2Proof/Machine/Step.lean ====
section
/-! DEFINITION. One step of the machine, and a word placed where the next step fetches. -/

namespace Sys2Proof.Machine

/-- One step: the agent whose turn it is moves (70_reset_and_hazards.md R370; Machine/Turn.lean). -/
def step (s : State) : Host.Outcome State Fault Refusal := takeTurn s

/-- `s` with the instruction of `w` (bytes above `nbits` zero) loaded at PC and the CPU about to fetch it:
the CPU's turn, RES high and no reset, NMI, IRQ or DMA access before the fetch. At `State.reset` only
memory changes. It stands for a program load from outside the machine (log 31). -/
def State.withFetchWord (s : State) (nbits w : Nat) : State := placeInstruction s nbits w

end Sys2Proof.Machine
end

