-- ==== Sys2Proof/Assembler.lean ====
section
/-! DEFINITION. The assembler's spelling of operands and its directives (30_encoding.md R87, R88): text and
bytes only, no step depends on them. -/

namespace Sys2Proof.Assembler

/-- A hexadecimal digit. -/
def hexDigit (n : Nat) : Char := "0123456789ABCDEF".toList.getD n '0'

/-- A byte as two digits and `H` (30_encoding.md R87). -/
def hexByte (b : Byte) : String := String.ofList [hexDigit (b.toNat / 16), hexDigit (b.toNat % 16), 'H']

/-- A word as four digits and `H` (30_encoding.md R87). -/
def hexWord (w : Word) : String :=
  String.ofList [hexDigit (w.toNat / 4096), hexDigit (w.toNat / 256 % 16),
    hexDigit (w.toNat / 16 % 16), hexDigit (w.toNat % 16), 'H']

/-- The operand of a two-byte format; a branch is written with its target, `next` being the address of the
next instruction (30_encoding.md R87; 92_eei_decisions.md D30 for the zero page indirect mode). -/
def byteOperand (f : Format) (n : Byte) (next : Word) : String :=
  match f with
  | .imm => "#" ++ hexByte n
  | .zp => "<" ++ hexByte n
  | .zpx => hexByte n ++ ",X"
  | .zpy => hexByte n ++ ",Y"
  | .izx => "[" ++ hexByte n ++ ",X]"
  | .izy => "[" ++ hexByte n ++ "],Y"
  | .izp => "[" ++ hexByte n ++ "]"
  | .rel => hexWord (next + sext n)
  | .imp => ""
  | .acc => ""
  | .abs => ""
  | .abx => ""
  | .aby => ""
  | .ind => ""
  | .iax => ""

/-- The operand of a three-byte format (30_encoding.md R87; 92_eei_decisions.md D30). -/
def wordOperand (f : Format) (nn : Word) : String :=
  match f with
  | .abs => ">" ++ hexWord nn
  | .abx => hexWord nn ++ ",X"
  | .aby => hexWord nn ++ ",Y"
  | .ind => "[" ++ hexWord nn ++ "]"
  | .iax => "[" ++ hexWord nn ++ ",X]"
  | .imp => ""
  | .acc => ""
  | .imm => ""
  | .zp => ""
  | .zpx => ""
  | .zpy => ""
  | .rel => ""
  | .izx => ""
  | .izy => ""
  | .izp => ""

/-- The mode a bare `n` or `nn` is assembled in: DIRECT or EXTEND (30_encoding.md R87, R88). -/
inductive BareMode where
  | direct
  | extend
  deriving DecidableEq, Repr

/-- The format of a bare operand (30_encoding.md R87). -/
def BareMode.format : BareMode → Format
  | .direct => .zp
  | .extend => .abs

/-- The directives (30_encoding.md R88). A text string is given by its bytes. -/
inductive Directive where
  | byte (bs : List Byte)
  | text (strings : List (List Byte))
  | word (ws : List Word)
  | rmb (sizes : List Word)
  | setMode (m : BareMode)
  deriving DecidableEq, Repr

/-- The bytes a directive lays down, none for a byte only reserved; words low byte first
(30_encoding.md R88, 20_memory.md R43). -/
def Directive.emit : Directive → List (Option Byte)
  | .byte bs => bs.map some
  | .text strings => strings.flatten.map some
  | .word ws => ws.flatMap fun w => [some (loByte w), some (hiByte w)]
  | .rmb sizes => sizes.flatMap fun n => List.replicate n.toNat none
  | .setMode _ => []

/-- The mode after a directive. -/
def Directive.mode (d : Directive) (m : BareMode) : BareMode :=
  match d with
  | .setMode k => k
  | .byte _ => m
  | .text _ => m
  | .word _ => m
  | .rmb _ => m

end Sys2Proof.Assembler
end

