-- ==== Sys2Proof/WellFormed.lean ====
section
/-! DEFINITION. What must be checked of a term beyond its type. The operands of an instruction have
exactly the width of their encoding (30_encoding.md R71), so every `Instr` is well-formed and there is
nothing to check of one. What the types leave open are the platform's parameters (00_scope.md R5). -/

namespace Sys2Proof.Machine

/-- The wiring of the register selects uses two different address lines, and PIA_BASE is the address
with RS1 RS0 = 00, so both lines are low in it (62_pia_r6520.md R301). -/
def Platform.wiringOk (p : Platform) : Bool :=
  decide (p.rs0Line ≠ p.rs1Line) &&
    (match p.piaBase with
     | none => true
     | some b => !b.getLsbD p.rs0Line.val && !b.getLsbD p.rs1Line.val)

/-- Every region of MEMMAP lies inside the 65536 bytes (20_memory.md R40). -/
def Platform.regionsInside (p : Platform) : Bool :=
  p.memmap.all fun r => decide (r.base + r.size ≤ 65536)

/-- MEMMAP assigns an address at most once (92_eei_decisions.md D19). -/
def Platform.regionsDisjoint (p : Platform) : Bool :=
  decide (p.memmap.Pairwise fun r q => r.base + r.size ≤ q.base ∨ q.base + q.size ≤ r.base)

/-- The clock runs at 1 to 4 MHz (00_scope.md R5). -/
def Platform.clockOk (p : Platform) : Bool :=
  decide (1000000 ≤ p.clockHz ∧ p.clockHz ≤ 4000000)

/-- All checks of a platform. -/
def Platform.wellFormed (p : Platform) : Bool :=
  p.wiringOk && p.regionsInside && p.regionsDisjoint && p.clockOk

end Sys2Proof.Machine
end

