-- ==== Sys2Proof/Safety.lean ====
section
/-! DEFINITION. The terms claims are made in: what each instruction touches and stores, the absence of the
DMA agent, the machine's invariant, the end of a run and a run without refusal. -/

namespace Sys2Proof.Machine

/-- How an instruction uses memory: not at all, by reading an operand, storing, modifying, pushing or
pulling `n` bytes, jumping through a pointer (indexed by X or not), or entering a trap. -/
inductive Access where
  | none
  | read (o : Source)
  | store (m : MemMode)
  | modify (m : MemMode)
  | push (n : Nat)
  | pull (n : Nat)
  | pointer (indexed : Bool) (nn : Word)
  | trap
  deriving DecidableEq, Repr

/-- The access of each instruction (the instruction files 41 to 45). -/
def instrAccess : Instr → Access
  | .ldaImm n => .read (.imm n)
  | .ldaZp n => .read (.mem (.zp n))
  | .ldaZpx n => .read (.mem (.zpx n))
  | .ldaAbs nn => .read (.mem (.abs nn))
  | .ldaAbx nn => .read (.mem (.abx nn))
  | .ldaAby nn => .read (.mem (.aby nn))
  | .ldaIzx n => .read (.mem (.izx n))
  | .ldaIzy n => .read (.mem (.izy n))
  | .ldaIzp n => .read (.mem (.izp n))
  | .ldxImm n => .read (.imm n)
  | .ldxZp n => .read (.mem (.zp n))
  | .ldxZpy n => .read (.mem (.zpy n))
  | .ldxAbs nn => .read (.mem (.abs nn))
  | .ldxAby nn => .read (.mem (.aby nn))
  | .ldyImm n => .read (.imm n)
  | .ldyZp n => .read (.mem (.zp n))
  | .ldyZpx n => .read (.mem (.zpx n))
  | .ldyAbs nn => .read (.mem (.abs nn))
  | .ldyAbx nn => .read (.mem (.abx nn))
  | .staZp n => .store (.zp n)
  | .staZpx n => .store (.zpx n)
  | .staAbs nn => .store (.abs nn)
  | .staAbx nn => .store (.abx nn)
  | .staAby nn => .store (.aby nn)
  | .staIzx n => .store (.izx n)
  | .staIzy n => .store (.izy n)
  | .staIzp n => .store (.izp n)
  | .stxZp n => .store (.zp n)
  | .stxZpy n => .store (.zpy n)
  | .stxAbs nn => .store (.abs nn)
  | .styZp n => .store (.zp n)
  | .styZpx n => .store (.zpx n)
  | .styAbs nn => .store (.abs nn)
  | .stzZp n => .store (.zp n)
  | .stzZpx n => .store (.zpx n)
  | .stzAbs nn => .store (.abs nn)
  | .stzAbx nn => .store (.abx nn)
  | .tax => .none
  | .tay => .none
  | .tsx => .none
  | .txa => .none
  | .txs => .none
  | .tya => .none
  | .adcImm n => .read (.imm n)
  | .adcZp n => .read (.mem (.zp n))
  | .adcZpx n => .read (.mem (.zpx n))
  | .adcAbs nn => .read (.mem (.abs nn))
  | .adcAbx nn => .read (.mem (.abx nn))
  | .adcAby nn => .read (.mem (.aby nn))
  | .adcIzx n => .read (.mem (.izx n))
  | .adcIzy n => .read (.mem (.izy n))
  | .adcIzp n => .read (.mem (.izp n))
  | .sbcImm n => .read (.imm n)
  | .sbcZp n => .read (.mem (.zp n))
  | .sbcZpx n => .read (.mem (.zpx n))
  | .sbcAbs nn => .read (.mem (.abs nn))
  | .sbcAbx nn => .read (.mem (.abx nn))
  | .sbcAby nn => .read (.mem (.aby nn))
  | .sbcIzx n => .read (.mem (.izx n))
  | .sbcIzy n => .read (.mem (.izy n))
  | .sbcIzp n => .read (.mem (.izp n))
  | .andImm n => .read (.imm n)
  | .andZp n => .read (.mem (.zp n))
  | .andZpx n => .read (.mem (.zpx n))
  | .andAbs nn => .read (.mem (.abs nn))
  | .andAbx nn => .read (.mem (.abx nn))
  | .andAby nn => .read (.mem (.aby nn))
  | .andIzx n => .read (.mem (.izx n))
  | .andIzy n => .read (.mem (.izy n))
  | .andIzp n => .read (.mem (.izp n))
  | .oraImm n => .read (.imm n)
  | .oraZp n => .read (.mem (.zp n))
  | .oraZpx n => .read (.mem (.zpx n))
  | .oraAbs nn => .read (.mem (.abs nn))
  | .oraAbx nn => .read (.mem (.abx nn))
  | .oraAby nn => .read (.mem (.aby nn))
  | .oraIzx n => .read (.mem (.izx n))
  | .oraIzy n => .read (.mem (.izy n))
  | .oraIzp n => .read (.mem (.izp n))
  | .eorImm n => .read (.imm n)
  | .eorZp n => .read (.mem (.zp n))
  | .eorZpx n => .read (.mem (.zpx n))
  | .eorAbs nn => .read (.mem (.abs nn))
  | .eorAbx nn => .read (.mem (.abx nn))
  | .eorAby nn => .read (.mem (.aby nn))
  | .eorIzx n => .read (.mem (.izx n))
  | .eorIzy n => .read (.mem (.izy n))
  | .eorIzp n => .read (.mem (.izp n))
  | .cmpImm n => .read (.imm n)
  | .cmpZp n => .read (.mem (.zp n))
  | .cmpZpx n => .read (.mem (.zpx n))
  | .cmpAbs nn => .read (.mem (.abs nn))
  | .cmpAbx nn => .read (.mem (.abx nn))
  | .cmpAby nn => .read (.mem (.aby nn))
  | .cmpIzx n => .read (.mem (.izx n))
  | .cmpIzy n => .read (.mem (.izy n))
  | .cmpIzp n => .read (.mem (.izp n))
  | .cpxImm n => .read (.imm n)
  | .cpxZp n => .read (.mem (.zp n))
  | .cpxAbs nn => .read (.mem (.abs nn))
  | .cpyImm n => .read (.imm n)
  | .cpyZp n => .read (.mem (.zp n))
  | .cpyAbs nn => .read (.mem (.abs nn))
  | .bitZp n => .read (.mem (.zp n))
  | .bitAbs nn => .read (.mem (.abs nn))
  | .tsbZp n => .modify (.zp n)
  | .tsbAbs nn => .modify (.abs nn)
  | .trbZp n => .modify (.zp n)
  | .trbAbs nn => .modify (.abs nn)
  | .aslZp n => .modify (.zp n)
  | .aslZpx n => .modify (.zpx n)
  | .aslAbs nn => .modify (.abs nn)
  | .aslAbx nn => .modify (.abx nn)
  | .asla => .none
  | .lsrZp n => .modify (.zp n)
  | .lsrZpx n => .modify (.zpx n)
  | .lsrAbs nn => .modify (.abs nn)
  | .lsrAbx nn => .modify (.abx nn)
  | .lsra => .none
  | .rolZp n => .modify (.zp n)
  | .rolZpx n => .modify (.zpx n)
  | .rolAbs nn => .modify (.abs nn)
  | .rolAbx nn => .modify (.abx nn)
  | .rola => .none
  | .rorZp n => .modify (.zp n)
  | .rorZpx n => .modify (.zpx n)
  | .rorAbs nn => .modify (.abs nn)
  | .rorAbx nn => .modify (.abx nn)
  | .rora => .none
  | .incZp n => .modify (.zp n)
  | .incZpx n => .modify (.zpx n)
  | .incAbs nn => .modify (.abs nn)
  | .incAbx nn => .modify (.abx nn)
  | .decZp n => .modify (.zp n)
  | .decZpx n => .modify (.zpx n)
  | .decAbs nn => .modify (.abs nn)
  | .decAbx nn => .modify (.abx nn)
  | .ina => .none
  | .dea => .none
  | .inx => .none
  | .iny => .none
  | .dex => .none
  | .dey => .none
  | .bcc _ => .none
  | .bcs _ => .none
  | .beq _ => .none
  | .bmi _ => .none
  | .bne _ => .none
  | .bpl _ => .none
  | .bvc _ => .none
  | .bvs _ => .none
  | .bra _ => .none
  | .jmpAbs _ => .none
  | .jmpInd nn => .pointer false nn
  | .jmpIax nn => .pointer true nn
  | .jsr _ => .push 2
  | .rts => .pull 2
  | .pha => .push 1
  | .php => .push 1
  | .phx => .push 1
  | .phy => .push 1
  | .pla => .pull 1
  | .plp => .pull 1
  | .plx => .pull 1
  | .ply => .pull 1
  | .clc => .none
  | .cld => .none
  | .cli => .none
  | .clv => .none
  | .sec => .none
  | .sed => .none
  | .sei => .none
  | .nop => .none
  | .brk => .trap
  | .rti => .pull 3

/-- The addresses an instruction stores to, computed as its meaning computes them. -/
def storedAddrs (i : Instr) (s : State) : List Word :=
  match instrAccess i with
  | .none => []
  | .read _ => []
  | .store m => [(m.address s).1]
  | .modify m => [(m.address s).1]
  | .push n => pushAddrs s.sp n
  | .pull _ => []
  | .pointer _ _ => []
  | .trap => pushAddrs s.sp 3

/-- The word a jump through memory reads its target at (40_addressing_modes.md R113, R114). -/
def pointerAddr (indexed : Bool) (nn : Word) (s : State) : Word :=
  if indexed then nn + zext s.x else nn

/-- The addresses an instruction touches in a way 20_memory.md R61 does not admit on the PIA. -/
def offDeviceAddrs (i : Instr) (s : State) : List Word :=
  match instrAccess i with
  | .none => []
  | .read o => o.deviceTouched s
  | .store m => m.deviceTouched s
  | .modify m => m.touched s
  | .push n => pushAddrs s.sp n
  | .pull n => pullAddrs s.sp n
  | .pointer x nn => [pointerAddr x nn s, pointerAddr x nn s + 1#16]
  | .trap => pushAddrs s.sp 3 ++ [irqVector, irqVector + 1#16]

/-- The address at which a mode may reach the PIA: the zero page and absolute modes (20_memory.md R61). -/
def MemMode.deviceAddr : MemMode → Option Word
  | .zp n => some (zext n)
  | .abs nn => some nn
  | .zpx _ => none
  | .zpy _ => none
  | .abx _ => none
  | .aby _ => none
  | .izx _ => none
  | .izy _ => none
  | .izp _ => none

/-- The address at which an instruction may reach the PIA (20_memory.md R61). -/
def deviceAddr (i : Instr) : Option Word :=
  match instrAccess i with
  | .read (.mem m) => m.deviceAddr
  | .store m => m.deviceAddr
  | .read (.imm _) => none
  | .none => none
  | .modify _ => none
  | .push _ => none
  | .pull _ => none
  | .pointer _ _ => none
  | .trap => none

/-- None of these addresses is the PIA's. -/
abbrev OffPia (s : State) (as : List Word) : Prop := ∀ a ∈ as, s.platform.isPia a = false

/-- DMA_AGENT absent (20_memory.md R59): no access of it is due before a CPU access. -/
abbrev NoDma (s : State) : Prop := s.dmaTurns = []

/-- RAM answers this address. -/
abbrev IsRam (s : State) (a : Word) : Prop := s.platform.target a = .ram

/-- RAM or ROM answers this address. -/
abbrev IsMemory (s : State) (a : Word) : Prop :=
  s.platform.target a = .ram ∨ s.platform.target a = .rom

/-- The next move is the CPU's and nothing stands before an instruction: the agenda is empty, RES is high
and no reset waits (60_exceptions.md R281). -/
abbrev CpuReady (s : State) : Prop :=
  s.agenda = [] ∧ s.resLine = .high ∧ s.resetPending = false

/-- The instruction just completed changed neither I nor irq_line (60_exceptions.md R264). -/
abbrev NoSlack (s : State) : Prop := s.slackI = none ∧ s.slackLine = none

/-- A section's flag bit 6 is 0 while C2 is an output (62_pia_r6520.md R320), and the level of C2 is the one
its mode fixes (R322, R326: manual modes; R323: the idle level of a pulse). -/
def PiaSection.consistent (q : PiaSection) : Bool :=
  !(bit q.cr 5 && bit q.cr 6) &&
    (match c2Mode q.cr with
     | .input => true
     | .handshake => true
     | .pulse => decide (q.c2Out = .high)
     | .manualLow => decide (q.c2Out = .low)
     | .manualHigh => decide (q.c2Out = .high))

/-- The three registers of a section are zero (62_pia_r6520.md R337). -/
def PiaSection.allZero (q : PiaSection) : Bool :=
  decide (q.cr = 0x00#8) && decide (q.ddr = 0x00#8) && decide (q.outReg = 0x00#8)

/-- The machine's invariant: memory is in canonical form, both PIA sections are consistent, and the PIA's
registers are zero while its RES is low (62_pia_r6520.md R320, R322, R326, R337). -/
abbrev State.Inv (s : State) : Prop :=
  Memory.wf s.mem = true ∧ s.pia.a.consistent = true ∧ s.pia.b.consistent = true ∧
    (s.piaInReset = true → s.pia.a.allZero = true ∧ s.pia.b.allZero = true)

/-- The CPU moves next, so that the state is at its boundary: no other agent's move comes first. -/
def State.cpuNext (s : State) : Bool :=
  match s.agenda with
  | [] => true
  | .cpu :: _ => true
  | .cpuTorn :: _ => true
  | .env _ :: _ => false
  | .dma _ :: _ => false

/-- A boundary at which a run can end (70_reset_and_hazards.md R371): the CPU moves next, PC is END_PC and no
trap is selected. The machine itself does not stop there. -/
abbrev State.endedAt (endPc : Word) (s : State) : Prop :=
  s.cpuNext = true ∧ s.pc = endPc ∧ s.resLine = .high ∧ s.resetPending = false ∧
    s.selection = .instruction

/-- The end state of a run from `s` (70_reset_and_hazards.md R371): the state at the first boundary, within
`n` steps, at which it ends; none where it is refused or reaches no such boundary by then. -/
def endState (endPc : Word) : Nat → State → Option State
  | 0, s => if s.endedAt endPc then some s else none
  | n + 1, s =>
    if s.endedAt endPc then some s
    else
      match step s with
      | .next t => endState endPc n t
      | .fault _ => none
      | .refused _ => none

/-- `n` steps from `s` all answer a next state: no refusal (93_implementation_defined.md U1, U10). -/
def SafeRun (n : Nat) (s : State) : Prop := ∃ t, Sys2Proof.core.run n s = .next t

end Sys2Proof.Machine
end

