-- ==== Sys2Proof/Certificates/Slice0/Obligations.lean ====
section
/-! DEFINITION. The statements about the machine, for the provers. Each docstring cites the rule of spec/ it
formalises; the definitions before them are the terms they share. -/

open Sys2Proof Sys2Proof.Machine

namespace Sys2Proof.Claims

/-- Row 0x of the printed opcode map (30_encoding.md R82). -/
def printedRow0 : List (Option (String × Format)) := [
  some ("BRK", .imp), some ("ORA", .izx), none, none, some ("TSB", .zp), some ("ORA", .zp),
    some ("ASL", .zp), none, some ("PHP", .imp), some ("ORA", .imm), some ("ASLA", .acc), none,
    some ("TSB", .abs), some ("ORA", .abs), some ("ASL", .abs), none]

/-- Row 1x of the printed opcode map (30_encoding.md R82). -/
def printedRow1 : List (Option (String × Format)) := [
  some ("BPL", .rel), some ("ORA", .izy), some ("ORA", .izp), none, some ("TRB", .zp),
    some ("ORA", .zpx), some ("ASL", .zpx), none, some ("CLC", .imp), some ("ORA", .aby),
    some ("INA", .acc), none, some ("TRB", .abs), some ("ORA", .abx), some ("ASL", .abx), none]

/-- Row 2x of the printed opcode map (30_encoding.md R82). -/
def printedRow2 : List (Option (String × Format)) := [
  some ("JSR", .abs), some ("AND", .izx), none, none, some ("BIT", .zp), some ("AND", .zp),
    some ("ROL", .zp), none, some ("PLP", .imp), some ("AND", .imm), some ("ROLA", .acc), none,
    some ("BIT", .abs), some ("AND", .abs), some ("ROL", .abs), none]

/-- Row 3x of the printed opcode map (30_encoding.md R82). -/
def printedRow3 : List (Option (String × Format)) := [
  some ("BMI", .rel), some ("AND", .izy), some ("AND", .izp), none, none, some ("AND", .zpx),
    some ("ROL", .zpx), none, some ("SEC", .imp), some ("AND", .aby), some ("DEA", .acc), none,
    none, some ("AND", .abx), some ("ROL", .abx), none]

/-- Row 4x of the printed opcode map (30_encoding.md R82). -/
def printedRow4 : List (Option (String × Format)) := [
  some ("RTI", .imp), some ("EOR", .izx), none, none, none, some ("EOR", .zp), some ("LSR", .zp),
    none, some ("PHA", .imp), some ("EOR", .imm), some ("LSRA", .acc), none, some ("JMP", .abs),
    some ("EOR", .abs), some ("LSR", .abs), none]

/-- Row 5x of the printed opcode map (30_encoding.md R82). -/
def printedRow5 : List (Option (String × Format)) := [
  some ("BVC", .rel), some ("EOR", .izy), some ("EOR", .izp), none, none, some ("EOR", .zpx),
    some ("LSR", .zpx), none, some ("CLI", .imp), some ("EOR", .aby), some ("PHY", .imp), none,
    none, some ("EOR", .abx), some ("LSR", .abx), none]

/-- Row 6x of the printed opcode map (30_encoding.md R82). -/
def printedRow6 : List (Option (String × Format)) := [
  some ("RTS", .imp), some ("ADC", .izx), none, none, some ("STZ", .zp), some ("ADC", .zp),
    some ("ROR", .zp), none, some ("PLA", .imp), some ("ADC", .imm), some ("RORA", .acc), none,
    some ("JMP", .ind), some ("ADC", .abs), some ("ROR", .abs), none]

/-- Row 7x of the printed opcode map (30_encoding.md R82). -/
def printedRow7 : List (Option (String × Format)) := [
  some ("BVS", .rel), some ("ADC", .izy), some ("ADC", .izp), none, some ("STZ", .zpx),
    some ("ADC", .zpx), some ("ROR", .zpx), none, some ("SEI", .imp), some ("ADC", .aby),
    some ("PLY", .imp), none, some ("JMP", .iax), some ("ADC", .abx), some ("ROR", .abx), none]

/-- Row 8x of the printed opcode map (30_encoding.md R82). -/
def printedRow8 : List (Option (String × Format)) := [
  some ("BRA", .rel), some ("STA", .izx), none, none, some ("STY", .zp), some ("STA", .zp),
    some ("STX", .zp), none, some ("DEY", .imp), none, some ("TXA", .imp), none,
    some ("STY", .abs), some ("STA", .abs), some ("STX", .abs), none]

/-- Row 9x of the printed opcode map (30_encoding.md R82). -/
def printedRow9 : List (Option (String × Format)) := [
  some ("BCC", .rel), some ("STA", .izy), some ("STA", .izp), none, some ("STY", .zpx),
    some ("STA", .zpx), some ("STX", .zpy), none, some ("TYA", .imp), some ("STA", .aby),
    some ("TXS", .imp), none, some ("STZ", .abs), some ("STA", .abx), some ("STZ", .abx), none]

/-- Row Ax of the printed opcode map (30_encoding.md R82). -/
def printedRowA : List (Option (String × Format)) := [
  some ("LDY", .imm), some ("LDA", .izx), some ("LDX", .imm), none, some ("LDY", .zp),
    some ("LDA", .zp), some ("LDX", .zp), none, some ("TAY", .imp), some ("LDA", .imm),
    some ("TAX", .imp), none, some ("LDY", .abs), some ("LDA", .abs), some ("LDX", .abs), none]

/-- Row Bx of the printed opcode map (30_encoding.md R82). -/
def printedRowB : List (Option (String × Format)) := [
  some ("BCS", .rel), some ("LDA", .izy), some ("LDA", .izp), none, some ("LDY", .zpx),
    some ("LDA", .zpx), some ("LDX", .zpy), none, some ("CLV", .imp), some ("LDA", .aby),
    some ("TSX", .imp), none, some ("LDY", .abx), some ("LDA", .abx), some ("LDX", .aby), none]

/-- Row Cx of the printed opcode map (30_encoding.md R82). -/
def printedRowC : List (Option (String × Format)) := [
  some ("CPY", .imm), some ("CMP", .izx), none, none, some ("CPY", .zp), some ("CMP", .zp),
    some ("DEC", .zp), none, some ("INY", .imp), some ("CMP", .imm), some ("DEX", .imp), none,
    some ("CPY", .abs), some ("CMP", .abs), some ("DEC", .abs), none]

/-- Row Dx of the printed opcode map (30_encoding.md R82). -/
def printedRowD : List (Option (String × Format)) := [
  some ("BNE", .rel), some ("CMP", .izy), some ("CMP", .izp), none, none, some ("CMP", .zpx),
    some ("DEC", .zpx), none, some ("CLD", .imp), some ("CMP", .aby), some ("PHX", .imp), none,
    none, some ("CMP", .abx), some ("DEC", .abx), none]

/-- Row Ex of the printed opcode map (30_encoding.md R82). -/
def printedRowE : List (Option (String × Format)) := [
  some ("CPX", .imm), some ("SBC", .izx), none, none, some ("CPX", .zp), some ("SBC", .zp),
    some ("INC", .zp), none, some ("INX", .imp), some ("SBC", .imm), some ("NOP", .imp), none,
    some ("CPX", .abs), some ("SBC", .abs), some ("INC", .abs), none]

/-- Row Fx of the printed opcode map (30_encoding.md R82). -/
def printedRowF : List (Option (String × Format)) := [
  some ("BEQ", .rel), some ("SBC", .izy), some ("SBC", .izp), none, none, some ("SBC", .zpx),
    some ("INC", .zpx), none, some ("SED", .imp), some ("SBC", .aby), some ("PLX", .imp), none,
    none, some ("SBC", .abx), some ("INC", .abx), none]

/-- The printed opcode map, indexed by the opcode (30_encoding.md R82). -/
def printedMap : List (Option (String × Format)) :=
  printedRow0 ++ printedRow1 ++ printedRow2 ++ printedRow3 ++ printedRow4 ++ printedRow5 ++
  printedRow6 ++ printedRow7 ++ printedRow8 ++ printedRow9 ++ printedRowA ++ printedRowB ++
  printedRowC ++ printedRowD ++ printedRowE ++ printedRowF

/-- The 81 opcode bytes of 30_encoding.md R86. -/
def undocumentedOpcodes : List Byte := [
  0x02#8, 0x03#8, 0x07#8, 0x0B#8, 0x0F#8, 0x13#8, 0x17#8, 0x1B#8, 0x1F#8, 0x22#8, 0x23#8, 0x27#8,
  0x2B#8, 0x2F#8, 0x33#8, 0x34#8, 0x37#8, 0x3B#8, 0x3C#8, 0x3F#8, 0x42#8, 0x43#8, 0x44#8, 0x47#8,
  0x4B#8, 0x4F#8, 0x53#8, 0x54#8, 0x57#8, 0x5B#8, 0x5C#8, 0x5F#8, 0x62#8, 0x63#8, 0x67#8, 0x6B#8,
  0x6F#8, 0x73#8, 0x77#8, 0x7B#8, 0x7F#8, 0x82#8, 0x83#8, 0x87#8, 0x89#8, 0x8B#8, 0x8F#8, 0x93#8,
  0x97#8, 0x9B#8, 0x9F#8, 0xA3#8, 0xA7#8, 0xAB#8, 0xAF#8, 0xB3#8, 0xB7#8, 0xBB#8, 0xBF#8, 0xC2#8,
  0xC3#8, 0xC7#8, 0xCB#8, 0xCF#8, 0xD3#8, 0xD4#8, 0xD7#8, 0xDB#8, 0xDC#8, 0xDF#8, 0xE2#8, 0xE3#8,
  0xE7#8, 0xEB#8, 0xEF#8, 0xF3#8, 0xF4#8, 0xF7#8, 0xFB#8, 0xFC#8, 0xFF#8]

/-- N and Z of a value, the other flags as they were (10_state.md R25). -/
def nz (p : Flags) (v : Byte) : Flags :=
  { p with n := decide (128 ≤ v.toNat), z := decide (v.toNat = 0) }

/-- The state after the instruction's last byte: `t` with PC moved past the instruction (10_state.md R16). -/
def past (s t : State) (i : Instr) : State :=
  { t with pc := BitVec.ofNat 16 (s.pc.toNat + i.length) }

/-- Instruction `i`, of opcode `op`, reads operand `o` and completes in the state `post` gives from the
state before it, the operand and the state after the operand's accesses. The premise is 20_memory.md R61;
it is empty for an immediate and for the zero page and absolute modes. -/
def Reads (op : Byte) (i : Instr) (o : Source) (post : State → Byte → State → State) : Prop :=
  (encode i).head? = some op ∧ ∀ s, OffPia s (o.deviceTouched s) →
    exec i s = .next (past s (post s (o.load s).1 (o.load s).2) i)

/-- `Reads` where a condition holds of the state before and the operand. -/
def ReadsIf (op : Byte) (i : Instr) (o : Source) (pre : State → Byte → Prop)
    (post : State → Byte → State → State) : Prop :=
  (encode i).head? = some op ∧ ∀ s, OffPia s (o.deviceTouched s) → pre s (o.load s).1 →
    exec i s = .next (past s (post s (o.load s).1 (o.load s).2) i)

/-- `ReadsIf` where the spec leaves values of the result open: some state `u` that `rel` admits. -/
def ReadsOpen (op : Byte) (i : Instr) (o : Source) (pre : State → Byte → Prop)
    (rel : State → Byte → State → State → Prop) : Prop :=
  (encode i).head? = some op ∧ ∀ s, OffPia s (o.deviceTouched s) → pre s (o.load s).1 →
    ∃ u, rel s (o.load s).1 (o.load s).2 u ∧ exec i s = .next (past s u i)

/-- Instruction `i`, of opcode `op`, stores the byte `v` gives at the address of mode `m`. -/
def Stores (op : Byte) (i : Instr) (m : MemMode) (v : State → Byte) : Prop :=
  (encode i).head? = some op ∧ ∀ s, OffPia s (m.deviceTouched s) →
    exec i s = .next (past s (writeAt (m.address s).1 (v s) (m.address s).2) i)

/-- Instruction `i`, of opcode `op`, reads the byte at the address of mode `m` once and then writes once the
byte that `f` gives from the state before and the byte read, with the flags `f` gives. -/
def Modifies (op : Byte) (i : Instr) (m : MemMode) (f : State → Byte → Byte × Flags) : Prop :=
  (encode i).head? = some op ∧ ∀ s, OffPia s (m.touched s) →
    let r := readAt (m.address s).1 (m.address s).2
    exec i s = .next (past s
      { writeAt (m.address s).1 (f s r.1).1 r.2 with p := (f s r.1).2 } i)

/-- Instruction `i`, of opcode `op`, completes from every state in the state `f` gives, PC moved past it. -/
def Computes (op : Byte) (i : Instr) (f : State → State) : Prop :=
  (encode i).head? = some op ∧ ∀ s, exec i s = .next (past s (f s) i)

/-- Branch `i`, of opcode `op`, goes to the next instruction plus its signed offset where `cond` holds, else
to the next instruction (44_branch_jump.md R210). -/
def Branches (op : Byte) (i : Byte → Instr) (cond : State → Prop) : Prop :=
  ∀ a, encode (i a) = [op, a] ∧ ∀ s,
    (cond s → exec (i a) s =
      .next { s with pc := BitVec.ofInt 16 ((s.pc.toNat : Int) + 2 + a.toInt) }) ∧
    (¬ cond s → exec (i a) s = .next { s with pc := BitVec.ofNat 16 (s.pc.toNat + 2) })

/-- Instruction `i`, of opcode `op`, pushes the byte `v` gives (20_memory.md R47). -/
def Pushes (op : Byte) (i : Instr) (v : State → Byte) : Prop :=
  encode i = [op] ∧ ∀ s, OffPia s [stackAddr s.sp] →
    exec i s = .next (past s
      { writeAt (stackAddr s.sp) (v s) s with sp := BitVec.ofNat 8 (s.sp.toNat + 255) } i)

/-- Instruction `i`, of opcode `op`, pulls a byte; `post` gives the state from the state before, the byte
and the state after the pull (20_memory.md R48). -/
def Pulls (op : Byte) (i : Instr) (post : State → Byte → State → State) : Prop :=
  encode i = [op] ∧ ∀ s, OffPia s [stackAddr (s.sp + 1#8)] →
    exec i s = .next (past s (post s (pull s).1 (pull s).2) i)

/-- The byte a pushed P shows, by place value (10_state.md R26). -/
def flagByte (p : Flags) (b : Bool) : Byte :=
  BitVec.ofNat 8 (128 * p.n.toNat + 64 * p.v.toNat + 32 + 16 * b.toNat + 8 * p.d.toNat +
    4 * p.i.toNat + 2 * p.z.toNat + p.c.toNat)

/-- The flags of a pulled byte, by place value (10_state.md R27). -/
def flagsOfByte (v : Byte) : Flags where
  n := decide (v.toNat / 128 % 2 = 1)
  v := decide (v.toNat / 64 % 2 = 1)
  d := decide (v.toNat / 8 % 2 = 1)
  i := decide (v.toNat / 4 % 2 = 1)
  z := decide (v.toNat / 2 % 2 = 1)
  c := decide (v.toNat % 2 = 1)

/-- The alternative value of I an instruction that changed it leaves (60_exceptions.md R264). -/
def slackAfter (s : State) (new : Bool) : Option Bool :=
  if new = s.p.i then s.slackI else some s.p.i

/-- Both digits of a byte are decimal (42_arithmetic_logic.md R152). -/
abbrev IsBcd (v : Byte) : Prop := v.toNat / 16 ≤ 9 ∧ v.toNat % 16 ≤ 9

/-- The number of two decimal digits (42_arithmetic_logic.md R152). -/
def dec (v : Byte) : Nat := v.toNat / 16 * 10 + v.toNat % 16

/-- Two decimal digits as a byte (42_arithmetic_logic.md R152). -/
def digits (r : Nat) : Byte := BitVec.ofNat 8 (16 * (r / 10) + r % 10)

/-- The state a trap entry reaches where the stack is RAM (60_exceptions.md R270). The trace is the model's own
record of the three pushes (log 32). -/
def trapState (s : State) (vec ret : Word) (b : Bool) : State :=
  { s with
    mem := Memory.write (Memory.write (Memory.write s.mem
      (256 + s.sp.toNat) (BitVec.ofNat 8 (ret.toNat / 256)))
      (256 + (s.sp.toNat + 255) % 256) (BitVec.ofNat 8 ret.toNat))
      (256 + (s.sp.toNat + 254) % 256) (flagByte s.p b)
    trace := s.trace ++ [BusEvent.write (stackAddr s.sp) (BitVec.ofNat 8 (ret.toNat / 256)),
      BusEvent.write (stackAddr (s.sp - 1#8)) (BitVec.ofNat 8 ret.toNat),
      BusEvent.write (stackAddr (s.sp - 2#8)) (flagByte s.p b)]
    sp := s.sp - 3#8
    p := { s.p with i := true, d := false }
    pc := wordOf (s.peek (vec + 1#16)) (s.peek vec) }

/-- The next three pushes go to RAM. -/
abbrev StackRam (s : State) : Prop :=
  IsRam s (stackAddr s.sp) ∧ IsRam s (stackAddr (s.sp - 1#8)) ∧ IsRam s (stackAddr (s.sp - 2#8))

/-- A word of memory answers at `vec`. -/
abbrev VectorMemory (s : State) (vec : Word) : Prop := IsMemory s vec ∧ IsMemory s (vec + 1#16)

/-- The byte at `b` is in `t` as it was in `s` or as one of these events stores it. -/
def ChangedOnlyBy (events : List BusEvent) (s t : State) (b : Word) : Prop :=
  t.peek b = s.peek b ∨
    ∃ v, (BusEvent.write b v ∈ events ∨ BusEvent.dma b v ∈ events) ∧ t.peek b = v

/-- A CPU step torn by RES went from `s` to `t`, its whole form from `s` to `u`: every byte of memory is as
it was or as the step (or the DMA agent in it) stored it, but for at most one byte that the step was storing
(70_reset_and_hazards.md R351). -/
def TornFrom (s u t : State) : Prop :=
  ∃ torn : Option Word, (∀ a, torn = some a → ∃ v, BusEvent.write a v ∈ u.trace) ∧
    ∀ b, torn ≠ some b → ChangedOnlyBy u.trace s t b

/-- Control register bit `i` of a section. -/
def crBit (q : PiaSection) (i : Nat) : Bool := bit q.cr i

end Sys2Proof.Claims

open Sys2Proof.Claims

/-- 30_encoding.md R70, R71, R83: the bytes of every instruction, with any bytes after them, decode to it and leave
those bytes. -/
def Obligations.DecodeReadsBackEveryEncoding : Prop :=
  ∀ (i : Instr) (rest : List Byte), decode (encode i ++ rest) = .ok (i, rest)

/-- 30_encoding.md R70, R82: whatever the decoder accepts is the encoding of the instruction it answers, so each
instruction has one encoding and no two share one. -/
def Obligations.DecodeAcceptsOnlyEncodings : Prop :=
  ∀ (bytes rest : List Byte) (i : Instr), decode bytes = .ok (i, rest) → bytes = encode i ++ rest

/-- 30_encoding.md R82: for every opcode byte, whatever follows it, the decoder finds the mnemonic and format of the
printed matrix, and nothing where the matrix has a dash. -/
def Obligations.OpcodeMapIsThePrintedMatrix : Prop :=
  ∀ op b1 b2 : Byte,
    match printedMap.getD op.toNat none with
    | some (m, f) => ∃ i rest, decode [op, b1, b2] = .ok (i, rest) ∧ i.mnemonic = m ∧ i.format = f
    | none => decode [op, b1, b2] = .error (.undocumented op)

/-- 30_encoding.md R86, 60_exceptions.md R281: exactly the 81 listed bytes have no meaning, and when the byte at PC
is one of them the instruction is refused by name. -/
def Obligations.UndocumentedOpcodesAreRefused : Prop :=
  (∀ op : Byte, opcodeLength op = none ↔ op ∈ undocumentedOpcodes) ∧
  (∀ s : State, s.platform.isPia s.pc = false → (readAt s.pc s).1 ∈ undocumentedOpcodes →
    runInstruction s = .refused (.undocumentedOpcode (readAt s.pc s).1))

/-- 30_encoding.md R82, R83: words written out from the encodings: LDA #80H, STA 0200H, BNE with offset FE, JMP [nn], TSB
zero page, ASLA, BRK. -/
def Obligations.SampleWordsDecode : Prop :=
  decodeTableWord 16 0x80A9 = some (.ldaImm 0x80#8) ∧
  decodeTableWord 24 0x02008D = some (.staAbs 0x0200#16) ∧
  decodeTableWord 16 0xFED0 = some (.bne 0xFE#8) ∧
  decodeTableWord 24 0x03006C = some (.jmpInd 0x0300#16) ∧
  decodeTableWord 16 0x3004 = some (.tsbZp 0x30#8) ∧
  decodeTableWord 8 0x0A = some .asla ∧
  decodeTableWord 8 0x00 = some .brk

/-- 60_exceptions.md R281, 20_memory.md R60: where the CPU is next, no trap is selected and the bytes at PC are in
memory and decode to i, a step is exec of i at the state after the boundary: the traces of the last step dropped and
its slack used up. exec itself moves PC past the instruction. -/
def Obligations.StepRunsDecodedInstruction : Prop :=
  ∀ (s : State) (i : Instr) (rest : List Byte), CpuReady s → NoDma s →
    s.clearTrace.selection = .instruction →
    (∀ k < i.length, IsMemory s (s.pc + BitVec.ofNat 16 k)) →
    decode [s.peek s.pc, s.peek (s.pc + 1#16), s.peek (s.pc + 2#16)] = .ok (i, rest) →
    step s = exec i s.clearTrace.boundary

/-- 60_exceptions.md R264, R267: at a boundary with no slack NMI is taken before IRQ, IRQ where the line is asserted
and I is 0, else the instruction at PC runs; the return address pushed is PC and B is 0 (R271, R272). -/
def Obligations.BoundaryTakesNmiThenIrqThenInstruction : Prop :=
  ∀ s : State, CpuReady s → NoSlack s →
    (s.nmiPending = true →
      step s = takeTrap 0xFFFA#16 s.pc false { s.clearTrace with nmiPending := false }) ∧
    (s.nmiPending = false → s.irqAsserted = true → s.p.i = false →
      step s = takeTrap 0xFFFE#16 s.pc false s.clearTrace) ∧
    (s.nmiPending = false → (s.irqAsserted = false ∨ s.p.i = true) →
      step s = runInstruction s.clearTrace)

/-- 60_exceptions.md R264: at the boundary after an instruction that changed I or the line, the test is made with the old
or the new value of each and with nothing else, whatever the free bits are. -/
def Obligations.SlackAdmitsOnlyOldOrNewValues : Prop :=
  ∀ s : State, ∃ line i : Bool,
    (line = s.irqAsserted ∨ s.slackLine = some line) ∧ (i = s.p.i ∨ s.slackI = some i) ∧
    s.irqSelected = (line && !i)

/-- 60_exceptions.md R270, R274: a trap entry pushes PC high, PC low and the image of P, sets I, clears D and loads PC
from the vector; A, X, Y stay. It completes wherever the stack and the vector are off the PIA. -/
def Obligations.TrapEntryPushesPcAndStatus : Prop :=
  ∀ (s : State) (vec ret : Word) (b : Bool), vec = 0xFFFA#16 ∨ vec = 0xFFFE#16 →
    (OffPia s [stackAddr s.sp, stackAddr (s.sp - 1#8), stackAddr (s.sp - 2#8), vec, vec + 1#16] →
      ∃ t, takeTrap vec ret b s = .next t ∧ t.a = s.a ∧ t.x = s.x ∧ t.y = s.y ∧
        t.sp = s.sp - 3#8 ∧ t.p = { s.p with i := true, d := false }) ∧
    (NoDma s → StackRam s → VectorMemory s vec →
      takeTrap vec ret b s = .next (trapState s vec ret b))

/-- 45_stack_flag_system.md R247, 60_exceptions.md R273: BRK pushes pc0 + 2 and P with B = 1 and goes through 0xFFFE. -/
def Obligations.BrkEntersTheSharedVector : Prop :=
  encode .brk = [0x00#8] ∧ ∀ s : State,
    (OffPia s [stackAddr s.sp, stackAddr (s.sp - 1#8), stackAddr (s.sp - 2#8), 0xFFFE#16, 0xFFFF#16] →
      ∃ t, exec .brk s = .next t ∧ t.a = s.a ∧ t.x = s.x ∧ t.y = s.y ∧
        t.sp = s.sp - 3#8 ∧ t.p = { s.p with i := true, d := false }) ∧
    (NoDma s → StackRam s → VectorMemory s 0xFFFE#16 →
      exec .brk s = .next (trapState s 0xFFFE#16 (BitVec.ofNat 16 (s.pc.toNat + 2)) true))

/-- 45_stack_flag_system.md R248, 60_exceptions.md R276: RTI pulls P, PC low, PC high; a changed I leaves its old value
for the next boundary (R264). -/
def Obligations.RtiRestoresStatusAndPc : Prop :=
  encode .rti = [0x40#8] ∧ ∀ s : State,
    (OffPia s [stackAddr (s.sp + 1#8), stackAddr (s.sp + 2#8), stackAddr (s.sp + 3#8)] →
      ∃ t, exec .rti s = .next t ∧ t.a = s.a ∧ t.x = s.x ∧ t.y = s.y ∧ t.sp = s.sp + 3#8) ∧
    (NoDma s → IsMemory s (stackAddr (s.sp + 1#8)) → IsMemory s (stackAddr (s.sp + 2#8)) →
      IsMemory s (stackAddr (s.sp + 3#8)) →
      exec .rti s = .next { s with
        sp := s.sp + 3#8
        p := flagsOfByte (s.peek (stackAddr (s.sp + 1#8)))
        slackI := slackAfter s (flagsOfByte (s.peek (stackAddr (s.sp + 1#8)))).i
        pc := wordOf (s.peek (stackAddr (s.sp + 3#8))) (s.peek (stackAddr (s.sp + 2#8))) })

/-- 60_exceptions.md R276, 45_stack_flag_system.md R248: an RTI executed at the first boundary of a handler restores the
flags, S and the return address that the entry pushed, and A, X, Y are as before. -/
def Obligations.RtiUndoesTrapEntry : Prop :=
  ∀ (s : State) (vec ret : Word) (b : Bool), vec = 0xFFFA#16 ∨ vec = 0xFFFE#16 → NoDma s →
    StackRam s → VectorMemory s vec →
    ∃ t u, takeTrap vec ret b s = .next t ∧ exec .rti t = .next u ∧
      u.p = s.p ∧ u.sp = s.sp ∧ u.pc = ret ∧ u.a = s.a ∧ u.x = s.x ∧ u.y = s.y

/-- 70_reset_and_hazards.md R350: the reset sequence sets I, clears D and nmi_pending, pushes nothing, changes no memory and
loads PC from 0xFFFC, 0xFFFD. -/
def Obligations.ResetSequenceSetsIAndLoadsVector : Prop :=
  ∀ s : State, s.agenda = [] → s.resLine = .high → s.resetPending = true →
    OffPia s [0xFFFC#16, 0xFFFD#16] →
    ∃ t, step s = .next t ∧ t.p.i = true ∧ t.p.d = false ∧ t.nmiPending = false ∧
      t.resetPending = false ∧ (∀ a v, BusEvent.write a v ∉ t.trace) ∧
      (NoDma s → t.mem = s.mem ∧ (VectorMemory s 0xFFFC#16 →
        t.pc = wordOf (s.peek 0xFFFD#16) (s.peek 0xFFFC#16)))

/-- 60_exceptions.md R266, R281, 70_reset_and_hazards.md R350, R351: while RES is low a CPU step does nothing; a rise from
low makes the reset sequence the next CPU step; with PIA_RES_TIED a low RES zeroes the PIA (62_pia_r6520.md R337); a
fall of RES during a CPU step leaves RES low and memory as it was or as that step had stored it, but for at most the
one byte being written. That the step's trace, the model's own record (log 32), names every byte it changes is stated
too; how a torn step is made is log 13 (DEDUCED). -/
def Obligations.ResHoldsTheCpuAndItsRiseStartsReset : Prop :=
  ∀ s : State,
    (s.agenda = [] → s.resLine = .low → step s = .next s.clearTrace) ∧
    (s.resLine = .low → (applyEnv (.res .high) s).resetPending = true ∧
      (applyEnv (.res .high) s).resLine = .high) ∧
    (s.platform.piaResTied = true →
      (applyEnv (.res .low) s).pia.a.allZero = true ∧ (applyEnv (.res .low) s).pia.b.allZero = true) ∧
    (∀ (rest : List Action) (u : State), s.agenda = .cpuTorn :: rest → s.resLine = .high →
      cpuStep { s.clearTrace with agenda := rest } = .next u →
      (∀ b, ChangedOnlyBy u.trace s u b) ∧
      ∃ t, step s = .next t ∧ t.resLine = .low ∧ TornFrom s u t)

/-- 10_state.md R32, R33: the values the spec gives for reset: I = 1, D = 0, nmi_pending = 0, the six PIA registers zero
and so IRQA and IRQB high, PC the word at the reset vector. -/
def Obligations.ResetStateHasTheSpecValues : Prop :=
  State.reset.p.i = true ∧ State.reset.p.d = false ∧ State.reset.nmiPending = false ∧
  State.reset.pia.a.allZero = true ∧ State.reset.pia.b.allZero = true ∧
  State.reset.pc = wordOf (State.reset.peek 0xFFFD#16) (State.reset.peek 0xFFFC#16) ∧
  State.reset.pia.a.irqLow = false ∧ State.reset.pia.b.irqLow = false

/-- 41_load_store_transfer.md R121, R122, R123: LDA, LDX, LDY in every mode. -/
def Obligations.LoadsSetRegisterAndNZ : Prop :=
  (∀ n, Reads 0xA9 (.ldaImm n) (.imm n) (fun s v t => { t with a := v, p := nz s.p v })) ∧
  (∀ n, Reads 0xA5 (.ldaZp n) (.mem (.zp n)) (fun s v t => { t with a := v, p := nz s.p v })) ∧
  (∀ n, Reads 0xB5 (.ldaZpx n) (.mem (.zpx n)) (fun s v t => { t with a := v, p := nz s.p v })) ∧
  (∀ nn, Reads 0xAD (.ldaAbs nn) (.mem (.abs nn)) (fun s v t => { t with a := v, p := nz s.p v })) ∧
  (∀ nn, Reads 0xBD (.ldaAbx nn) (.mem (.abx nn)) (fun s v t => { t with a := v, p := nz s.p v })) ∧
  (∀ nn, Reads 0xB9 (.ldaAby nn) (.mem (.aby nn)) (fun s v t => { t with a := v, p := nz s.p v })) ∧
  (∀ n, Reads 0xA1 (.ldaIzx n) (.mem (.izx n)) (fun s v t => { t with a := v, p := nz s.p v })) ∧
  (∀ n, Reads 0xB1 (.ldaIzy n) (.mem (.izy n)) (fun s v t => { t with a := v, p := nz s.p v })) ∧
  (∀ n, Reads 0xB2 (.ldaIzp n) (.mem (.izp n)) (fun s v t => { t with a := v, p := nz s.p v })) ∧
  (∀ n, Reads 0xA2 (.ldxImm n) (.imm n) (fun s v t => { t with x := v, p := nz s.p v })) ∧
  (∀ n, Reads 0xA6 (.ldxZp n) (.mem (.zp n)) (fun s v t => { t with x := v, p := nz s.p v })) ∧
  (∀ n, Reads 0xB6 (.ldxZpy n) (.mem (.zpy n)) (fun s v t => { t with x := v, p := nz s.p v })) ∧
  (∀ nn, Reads 0xAE (.ldxAbs nn) (.mem (.abs nn)) (fun s v t => { t with x := v, p := nz s.p v })) ∧
  (∀ nn, Reads 0xBE (.ldxAby nn) (.mem (.aby nn)) (fun s v t => { t with x := v, p := nz s.p v })) ∧
  (∀ n, Reads 0xA0 (.ldyImm n) (.imm n) (fun s v t => { t with y := v, p := nz s.p v })) ∧
  (∀ n, Reads 0xA4 (.ldyZp n) (.mem (.zp n)) (fun s v t => { t with y := v, p := nz s.p v })) ∧
  (∀ n, Reads 0xB4 (.ldyZpx n) (.mem (.zpx n)) (fun s v t => { t with y := v, p := nz s.p v })) ∧
  (∀ nn, Reads 0xAC (.ldyAbs nn) (.mem (.abs nn)) (fun s v t => { t with y := v, p := nz s.p v })) ∧
  (∀ nn, Reads 0xBC (.ldyAbx nn) (.mem (.abx nn)) (fun s v t => { t with y := v, p := nz s.p v }))

/-- 41_load_store_transfer.md R124 to R127: STA, STX, STY, STZ in every mode; no flag changes. -/
def Obligations.StoresWriteOneByte : Prop :=
  (∀ n, Stores 0x85 (.staZp n) (.zp n) (fun s => s.a)) ∧
  (∀ n, Stores 0x95 (.staZpx n) (.zpx n) (fun s => s.a)) ∧
  (∀ nn, Stores 0x8D (.staAbs nn) (.abs nn) (fun s => s.a)) ∧
  (∀ nn, Stores 0x9D (.staAbx nn) (.abx nn) (fun s => s.a)) ∧
  (∀ nn, Stores 0x99 (.staAby nn) (.aby nn) (fun s => s.a)) ∧
  (∀ n, Stores 0x81 (.staIzx n) (.izx n) (fun s => s.a)) ∧
  (∀ n, Stores 0x91 (.staIzy n) (.izy n) (fun s => s.a)) ∧
  (∀ n, Stores 0x92 (.staIzp n) (.izp n) (fun s => s.a)) ∧
  (∀ n, Stores 0x86 (.stxZp n) (.zp n) (fun s => s.x)) ∧
  (∀ n, Stores 0x96 (.stxZpy n) (.zpy n) (fun s => s.x)) ∧
  (∀ nn, Stores 0x8E (.stxAbs nn) (.abs nn) (fun s => s.x)) ∧
  (∀ n, Stores 0x84 (.styZp n) (.zp n) (fun s => s.y)) ∧
  (∀ n, Stores 0x94 (.styZpx n) (.zpx n) (fun s => s.y)) ∧
  (∀ nn, Stores 0x8C (.styAbs nn) (.abs nn) (fun s => s.y)) ∧
  (∀ n, Stores 0x64 (.stzZp n) (.zp n) (fun _ => 0x00#8)) ∧
  (∀ n, Stores 0x74 (.stzZpx n) (.zpx n) (fun _ => 0x00#8)) ∧
  (∀ nn, Stores 0x9C (.stzAbs nn) (.abs nn) (fun _ => 0x00#8)) ∧
  (∀ nn, Stores 0x9E (.stzAbx nn) (.abx nn) (fun _ => 0x00#8))

/-- 41_load_store_transfer.md R128 to R133: the six transfers; TXS alone leaves N and Z. -/
def Obligations.TransfersCopyRegisters : Prop :=
  (Computes 0xAA .tax fun s => { s with x := s.a, p := nz s.p s.a }) ∧
  (Computes 0xA8 .tay fun s => { s with y := s.a, p := nz s.p s.a }) ∧
  (Computes 0xBA .tsx fun s => { s with x := s.sp, p := nz s.p s.sp }) ∧
  (Computes 0x8A .txa fun s => { s with a := s.x, p := nz s.p s.x }) ∧
  (Computes 0x9A .txs fun s => { s with sp := s.x }) ∧
  (Computes 0x98 .tya fun s => { s with a := s.y, p := nz s.p s.y })

/-- ADC with D = 0 (42_arithmetic_logic.md R151). -/
def Sys2Proof.Claims.adcBinary : State → Byte → State → State :=
  fun s v t =>
    let sum := s.a.toNat + v.toNat + s.p.c.toNat
    let signed := s.a.toInt + v.toInt + (s.p.c.toNat : Int)
    { t with
      a := BitVec.ofNat 8 sum
      p := { nz s.p (BitVec.ofNat 8 sum) with
             v := decide (signed < -128 ∨ 127 < signed), c := decide (256 ≤ sum) } }

/-- SBC with D = 0 (42_arithmetic_logic.md R153): the borrow is the complement of C. -/
def Sys2Proof.Claims.sbcBinary : State → Byte → State → State :=
  fun s v t =>
    let diff := (s.a.toNat : Int) - v.toNat - (!s.p.c).toNat
    let signed := s.a.toInt - v.toInt - (!s.p.c).toNat
    { t with
      a := BitVec.ofInt 8 diff
      p := { nz s.p (BitVec.ofInt 8 diff) with
             v := decide (signed < -128 ∨ 127 < signed),
             c := decide (v.toNat + (!s.p.c).toNat ≤ s.a.toNat) } }

/-- ADC with D = 1 on decimal digits (42_arithmetic_logic.md R152): V is open. -/
def Sys2Proof.Claims.adcDecimal : State → Byte → State → State → Prop :=
  fun s v t u => ∃ (open_v : Bool) (k : Nat),
    let sum := dec s.a + dec v + s.p.c.toNat
    u = { t with
      a := digits (sum % 100)
      p := { nz s.p (digits (sum % 100)) with v := open_v, c := decide (100 ≤ sum) }
      draws := k }

/-- SBC with D = 1 on decimal digits (42_arithmetic_logic.md R154): V is open. -/
def Sys2Proof.Claims.sbcDecimal : State → Byte → State → State → Prop :=
  fun s v t u => ∃ (open_v : Bool) (k : Nat),
    let r := (100 + dec s.a - dec v - (!s.p.c).toNat) % 100
    u = { t with
      a := digits r
      p := { nz s.p (digits r) with
             v := open_v, c := decide (dec v + (!s.p.c).toNat ≤ dec s.a) }
      draws := k }

/-- ADC or SBC with D = 1 and a digit above 9 (42_arithmetic_logic.md R152, R154): A, N, V, Z, C are open,
everything else is as the operand's accesses left it. -/
def Sys2Proof.Claims.openResult : State → Byte → State → State → Prop :=
  fun s _ t u => ∃ (open_a : Byte) (open_n open_v open_z open_c : Bool) (k : Nat),
    u = { t with
      a := open_a
      p := { s.p with n := open_n, v := open_v, z := open_z, c := open_c }
      draws := k }

/-- 42_arithmetic_logic.md R151: ADC with D = 0 in every mode. C is the unsigned carry, V the signed overflow, the
incoming C counted in both. -/
def Obligations.AdcAddsInBinary : Prop :=
  (∀ n, ReadsIf 0x69 (.adcImm n) (.imm n) (fun s _ => s.p.d = false) adcBinary) ∧
  (∀ n, ReadsIf 0x65 (.adcZp n) (.mem (.zp n)) (fun s _ => s.p.d = false) adcBinary) ∧
  (∀ n, ReadsIf 0x75 (.adcZpx n) (.mem (.zpx n)) (fun s _ => s.p.d = false) adcBinary) ∧
  (∀ nn, ReadsIf 0x6D (.adcAbs nn) (.mem (.abs nn)) (fun s _ => s.p.d = false) adcBinary) ∧
  (∀ nn, ReadsIf 0x7D (.adcAbx nn) (.mem (.abx nn)) (fun s _ => s.p.d = false) adcBinary) ∧
  (∀ nn, ReadsIf 0x79 (.adcAby nn) (.mem (.aby nn)) (fun s _ => s.p.d = false) adcBinary) ∧
  (∀ n, ReadsIf 0x61 (.adcIzx n) (.mem (.izx n)) (fun s _ => s.p.d = false) adcBinary) ∧
  (∀ n, ReadsIf 0x71 (.adcIzy n) (.mem (.izy n)) (fun s _ => s.p.d = false) adcBinary) ∧
  (∀ n, ReadsIf 0x72 (.adcIzp n) (.mem (.izp n)) (fun s _ => s.p.d = false) adcBinary)

/-- 42_arithmetic_logic.md R153: SBC with D = 0 in every mode. C is 1 exactly where there is no borrow. -/
def Obligations.SbcSubtractsInBinary : Prop :=
  (∀ n, ReadsIf 0xE9 (.sbcImm n) (.imm n) (fun s _ => s.p.d = false) sbcBinary) ∧
  (∀ n, ReadsIf 0xE5 (.sbcZp n) (.mem (.zp n)) (fun s _ => s.p.d = false) sbcBinary) ∧
  (∀ n, ReadsIf 0xF5 (.sbcZpx n) (.mem (.zpx n)) (fun s _ => s.p.d = false) sbcBinary) ∧
  (∀ nn, ReadsIf 0xED (.sbcAbs nn) (.mem (.abs nn)) (fun s _ => s.p.d = false) sbcBinary) ∧
  (∀ nn, ReadsIf 0xFD (.sbcAbx nn) (.mem (.abx nn)) (fun s _ => s.p.d = false) sbcBinary) ∧
  (∀ nn, ReadsIf 0xF9 (.sbcAby nn) (.mem (.aby nn)) (fun s _ => s.p.d = false) sbcBinary) ∧
  (∀ n, ReadsIf 0xE1 (.sbcIzx n) (.mem (.izx n)) (fun s _ => s.p.d = false) sbcBinary) ∧
  (∀ n, ReadsIf 0xF1 (.sbcIzy n) (.mem (.izy n)) (fun s _ => s.p.d = false) sbcBinary) ∧
  (∀ n, ReadsIf 0xF2 (.sbcIzp n) (.mem (.izp n)) (fun s _ => s.p.d = false) sbcBinary)

/-- 42_arithmetic_logic.md R152, R154: ADC and SBC with D = 1 on decimal digits, in every mode, for every value of the open
V. -/
def Obligations.DecimalAdcAndSbcGiveDigits : Prop :=
  (∀ n, ReadsOpen 0x69 (.adcImm n) (.imm n) (fun s v => s.p.d = true ∧ IsBcd s.a ∧ IsBcd v) adcDecimal) ∧
  (∀ n, ReadsOpen 0x65 (.adcZp n) (.mem (.zp n)) (fun s v => s.p.d = true ∧ IsBcd s.a ∧ IsBcd v) adcDecimal) ∧
  (∀ n, ReadsOpen 0x75 (.adcZpx n) (.mem (.zpx n)) (fun s v => s.p.d = true ∧ IsBcd s.a ∧ IsBcd v) adcDecimal) ∧
  (∀ nn, ReadsOpen 0x6D (.adcAbs nn) (.mem (.abs nn)) (fun s v => s.p.d = true ∧ IsBcd s.a ∧ IsBcd v) adcDecimal) ∧
  (∀ nn, ReadsOpen 0x7D (.adcAbx nn) (.mem (.abx nn)) (fun s v => s.p.d = true ∧ IsBcd s.a ∧ IsBcd v) adcDecimal) ∧
  (∀ nn, ReadsOpen 0x79 (.adcAby nn) (.mem (.aby nn)) (fun s v => s.p.d = true ∧ IsBcd s.a ∧ IsBcd v) adcDecimal) ∧
  (∀ n, ReadsOpen 0x61 (.adcIzx n) (.mem (.izx n)) (fun s v => s.p.d = true ∧ IsBcd s.a ∧ IsBcd v) adcDecimal) ∧
  (∀ n, ReadsOpen 0x71 (.adcIzy n) (.mem (.izy n)) (fun s v => s.p.d = true ∧ IsBcd s.a ∧ IsBcd v) adcDecimal) ∧
  (∀ n, ReadsOpen 0x72 (.adcIzp n) (.mem (.izp n)) (fun s v => s.p.d = true ∧ IsBcd s.a ∧ IsBcd v) adcDecimal) ∧
  (∀ n, ReadsOpen 0xE9 (.sbcImm n) (.imm n) (fun s v => s.p.d = true ∧ IsBcd s.a ∧ IsBcd v) sbcDecimal) ∧
  (∀ n, ReadsOpen 0xE5 (.sbcZp n) (.mem (.zp n)) (fun s v => s.p.d = true ∧ IsBcd s.a ∧ IsBcd v) sbcDecimal) ∧
  (∀ n, ReadsOpen 0xF5 (.sbcZpx n) (.mem (.zpx n)) (fun s v => s.p.d = true ∧ IsBcd s.a ∧ IsBcd v) sbcDecimal) ∧
  (∀ nn, ReadsOpen 0xED (.sbcAbs nn) (.mem (.abs nn)) (fun s v => s.p.d = true ∧ IsBcd s.a ∧ IsBcd v) sbcDecimal) ∧
  (∀ nn, ReadsOpen 0xFD (.sbcAbx nn) (.mem (.abx nn)) (fun s v => s.p.d = true ∧ IsBcd s.a ∧ IsBcd v) sbcDecimal) ∧
  (∀ nn, ReadsOpen 0xF9 (.sbcAby nn) (.mem (.aby nn)) (fun s v => s.p.d = true ∧ IsBcd s.a ∧ IsBcd v) sbcDecimal) ∧
  (∀ n, ReadsOpen 0xE1 (.sbcIzx n) (.mem (.izx n)) (fun s v => s.p.d = true ∧ IsBcd s.a ∧ IsBcd v) sbcDecimal) ∧
  (∀ n, ReadsOpen 0xF1 (.sbcIzy n) (.mem (.izy n)) (fun s v => s.p.d = true ∧ IsBcd s.a ∧ IsBcd v) sbcDecimal) ∧
  (∀ n, ReadsOpen 0xF2 (.sbcIzp n) (.mem (.izp n)) (fun s v => s.p.d = true ∧ IsBcd s.a ∧ IsBcd v) sbcDecimal)

/-- 42_arithmetic_logic.md R152, R154: with D = 1 and a digit above 9, ADC and SBC complete; A, N, V, Z, C are open and
nothing else changes but PC and what the operand access changes. -/
def Obligations.NonDecimalDigitsLeaveOnlyTheResultOpen : Prop :=
  (∀ n, ReadsOpen 0x69 (.adcImm n) (.imm n) (fun s v => s.p.d = true ∧ ¬ (IsBcd s.a ∧ IsBcd v)) openResult) ∧
  (∀ n, ReadsOpen 0x65 (.adcZp n) (.mem (.zp n)) (fun s v => s.p.d = true ∧ ¬ (IsBcd s.a ∧ IsBcd v)) openResult) ∧
  (∀ n, ReadsOpen 0x75 (.adcZpx n) (.mem (.zpx n)) (fun s v => s.p.d = true ∧ ¬ (IsBcd s.a ∧ IsBcd v)) openResult) ∧
  (∀ nn, ReadsOpen 0x6D (.adcAbs nn) (.mem (.abs nn)) (fun s v => s.p.d = true ∧ ¬ (IsBcd s.a ∧ IsBcd v)) openResult) ∧
  (∀ nn, ReadsOpen 0x7D (.adcAbx nn) (.mem (.abx nn)) (fun s v => s.p.d = true ∧ ¬ (IsBcd s.a ∧ IsBcd v)) openResult) ∧
  (∀ nn, ReadsOpen 0x79 (.adcAby nn) (.mem (.aby nn)) (fun s v => s.p.d = true ∧ ¬ (IsBcd s.a ∧ IsBcd v)) openResult) ∧
  (∀ n, ReadsOpen 0x61 (.adcIzx n) (.mem (.izx n)) (fun s v => s.p.d = true ∧ ¬ (IsBcd s.a ∧ IsBcd v)) openResult) ∧
  (∀ n, ReadsOpen 0x71 (.adcIzy n) (.mem (.izy n)) (fun s v => s.p.d = true ∧ ¬ (IsBcd s.a ∧ IsBcd v)) openResult) ∧
  (∀ n, ReadsOpen 0x72 (.adcIzp n) (.mem (.izp n)) (fun s v => s.p.d = true ∧ ¬ (IsBcd s.a ∧ IsBcd v)) openResult) ∧
  (∀ n, ReadsOpen 0xE9 (.sbcImm n) (.imm n) (fun s v => s.p.d = true ∧ ¬ (IsBcd s.a ∧ IsBcd v)) openResult) ∧
  (∀ n, ReadsOpen 0xE5 (.sbcZp n) (.mem (.zp n)) (fun s v => s.p.d = true ∧ ¬ (IsBcd s.a ∧ IsBcd v)) openResult) ∧
  (∀ n, ReadsOpen 0xF5 (.sbcZpx n) (.mem (.zpx n)) (fun s v => s.p.d = true ∧ ¬ (IsBcd s.a ∧ IsBcd v)) openResult) ∧
  (∀ nn, ReadsOpen 0xED (.sbcAbs nn) (.mem (.abs nn)) (fun s v => s.p.d = true ∧ ¬ (IsBcd s.a ∧ IsBcd v)) openResult) ∧
  (∀ nn, ReadsOpen 0xFD (.sbcAbx nn) (.mem (.abx nn)) (fun s v => s.p.d = true ∧ ¬ (IsBcd s.a ∧ IsBcd v)) openResult) ∧
  (∀ nn, ReadsOpen 0xF9 (.sbcAby nn) (.mem (.aby nn)) (fun s v => s.p.d = true ∧ ¬ (IsBcd s.a ∧ IsBcd v)) openResult) ∧
  (∀ n, ReadsOpen 0xE1 (.sbcIzx n) (.mem (.izx n)) (fun s v => s.p.d = true ∧ ¬ (IsBcd s.a ∧ IsBcd v)) openResult) ∧
  (∀ n, ReadsOpen 0xF1 (.sbcIzy n) (.mem (.izy n)) (fun s v => s.p.d = true ∧ ¬ (IsBcd s.a ∧ IsBcd v)) openResult) ∧
  (∀ n, ReadsOpen 0xF2 (.sbcIzp n) (.mem (.izp n)) (fun s v => s.p.d = true ∧ ¬ (IsBcd s.a ∧ IsBcd v)) openResult)

/-- 42_arithmetic_logic.md R155, R156, R157: AND, ORA, EOR in every mode. -/
def Obligations.LogicCombinesAccumulatorAndOperand : Prop :=
  (∀ n, Reads 0x29 (.andImm n) (.imm n) (fun s v t => { t with a := s.a &&& v, p := nz s.p (s.a &&& v) })) ∧
  (∀ n, Reads 0x25 (.andZp n) (.mem (.zp n)) (fun s v t => { t with a := s.a &&& v, p := nz s.p (s.a &&& v) })) ∧
  (∀ n, Reads 0x35 (.andZpx n) (.mem (.zpx n)) (fun s v t => { t with a := s.a &&& v, p := nz s.p (s.a &&& v) })) ∧
  (∀ nn, Reads 0x2D (.andAbs nn) (.mem (.abs nn)) (fun s v t => { t with a := s.a &&& v, p := nz s.p (s.a &&& v) })) ∧
  (∀ nn, Reads 0x3D (.andAbx nn) (.mem (.abx nn)) (fun s v t => { t with a := s.a &&& v, p := nz s.p (s.a &&& v) })) ∧
  (∀ nn, Reads 0x39 (.andAby nn) (.mem (.aby nn)) (fun s v t => { t with a := s.a &&& v, p := nz s.p (s.a &&& v) })) ∧
  (∀ n, Reads 0x21 (.andIzx n) (.mem (.izx n)) (fun s v t => { t with a := s.a &&& v, p := nz s.p (s.a &&& v) })) ∧
  (∀ n, Reads 0x31 (.andIzy n) (.mem (.izy n)) (fun s v t => { t with a := s.a &&& v, p := nz s.p (s.a &&& v) })) ∧
  (∀ n, Reads 0x32 (.andIzp n) (.mem (.izp n)) (fun s v t => { t with a := s.a &&& v, p := nz s.p (s.a &&& v) })) ∧
  (∀ n, Reads 0x09 (.oraImm n) (.imm n) (fun s v t => { t with a := s.a ||| v, p := nz s.p (s.a ||| v) })) ∧
  (∀ n, Reads 0x05 (.oraZp n) (.mem (.zp n)) (fun s v t => { t with a := s.a ||| v, p := nz s.p (s.a ||| v) })) ∧
  (∀ n, Reads 0x15 (.oraZpx n) (.mem (.zpx n)) (fun s v t => { t with a := s.a ||| v, p := nz s.p (s.a ||| v) })) ∧
  (∀ nn, Reads 0x0D (.oraAbs nn) (.mem (.abs nn)) (fun s v t => { t with a := s.a ||| v, p := nz s.p (s.a ||| v) })) ∧
  (∀ nn, Reads 0x1D (.oraAbx nn) (.mem (.abx nn)) (fun s v t => { t with a := s.a ||| v, p := nz s.p (s.a ||| v) })) ∧
  (∀ nn, Reads 0x19 (.oraAby nn) (.mem (.aby nn)) (fun s v t => { t with a := s.a ||| v, p := nz s.p (s.a ||| v) })) ∧
  (∀ n, Reads 0x01 (.oraIzx n) (.mem (.izx n)) (fun s v t => { t with a := s.a ||| v, p := nz s.p (s.a ||| v) })) ∧
  (∀ n, Reads 0x11 (.oraIzy n) (.mem (.izy n)) (fun s v t => { t with a := s.a ||| v, p := nz s.p (s.a ||| v) })) ∧
  (∀ n, Reads 0x12 (.oraIzp n) (.mem (.izp n)) (fun s v t => { t with a := s.a ||| v, p := nz s.p (s.a ||| v) })) ∧
  (∀ n, Reads 0x49 (.eorImm n) (.imm n) (fun s v t => { t with a := s.a ^^^ v, p := nz s.p (s.a ^^^ v) })) ∧
  (∀ n, Reads 0x45 (.eorZp n) (.mem (.zp n)) (fun s v t => { t with a := s.a ^^^ v, p := nz s.p (s.a ^^^ v) })) ∧
  (∀ n, Reads 0x55 (.eorZpx n) (.mem (.zpx n)) (fun s v t => { t with a := s.a ^^^ v, p := nz s.p (s.a ^^^ v) })) ∧
  (∀ nn, Reads 0x4D (.eorAbs nn) (.mem (.abs nn)) (fun s v t => { t with a := s.a ^^^ v, p := nz s.p (s.a ^^^ v) })) ∧
  (∀ nn, Reads 0x5D (.eorAbx nn) (.mem (.abx nn)) (fun s v t => { t with a := s.a ^^^ v, p := nz s.p (s.a ^^^ v) })) ∧
  (∀ nn, Reads 0x59 (.eorAby nn) (.mem (.aby nn)) (fun s v t => { t with a := s.a ^^^ v, p := nz s.p (s.a ^^^ v) })) ∧
  (∀ n, Reads 0x41 (.eorIzx n) (.mem (.izx n)) (fun s v t => { t with a := s.a ^^^ v, p := nz s.p (s.a ^^^ v) })) ∧
  (∀ n, Reads 0x51 (.eorIzy n) (.mem (.izy n)) (fun s v t => { t with a := s.a ^^^ v, p := nz s.p (s.a ^^^ v) })) ∧
  (∀ n, Reads 0x52 (.eorIzp n) (.mem (.izp n)) (fun s v t => { t with a := s.a ^^^ v, p := nz s.p (s.a ^^^ v) }))

/-- 42_arithmetic_logic.md R158 to R161: CMP, CPX, CPY in every mode; no register and not V changes. -/
def Obligations.ComparesSetNZC : Prop :=
  (∀ n, Reads 0xC9 (.cmpImm n) (.imm n) (fun s v t => { t with p := { s.p with n := decide (128 ≤ (s.a - v).toNat), z := decide (s.a = v), c := decide (v.toNat ≤ s.a.toNat) } })) ∧
  (∀ n, Reads 0xC5 (.cmpZp n) (.mem (.zp n)) (fun s v t => { t with p := { s.p with n := decide (128 ≤ (s.a - v).toNat), z := decide (s.a = v), c := decide (v.toNat ≤ s.a.toNat) } })) ∧
  (∀ n, Reads 0xD5 (.cmpZpx n) (.mem (.zpx n)) (fun s v t => { t with p := { s.p with n := decide (128 ≤ (s.a - v).toNat), z := decide (s.a = v), c := decide (v.toNat ≤ s.a.toNat) } })) ∧
  (∀ nn, Reads 0xCD (.cmpAbs nn) (.mem (.abs nn)) (fun s v t => { t with p := { s.p with n := decide (128 ≤ (s.a - v).toNat), z := decide (s.a = v), c := decide (v.toNat ≤ s.a.toNat) } })) ∧
  (∀ nn, Reads 0xDD (.cmpAbx nn) (.mem (.abx nn)) (fun s v t => { t with p := { s.p with n := decide (128 ≤ (s.a - v).toNat), z := decide (s.a = v), c := decide (v.toNat ≤ s.a.toNat) } })) ∧
  (∀ nn, Reads 0xD9 (.cmpAby nn) (.mem (.aby nn)) (fun s v t => { t with p := { s.p with n := decide (128 ≤ (s.a - v).toNat), z := decide (s.a = v), c := decide (v.toNat ≤ s.a.toNat) } })) ∧
  (∀ n, Reads 0xC1 (.cmpIzx n) (.mem (.izx n)) (fun s v t => { t with p := { s.p with n := decide (128 ≤ (s.a - v).toNat), z := decide (s.a = v), c := decide (v.toNat ≤ s.a.toNat) } })) ∧
  (∀ n, Reads 0xD1 (.cmpIzy n) (.mem (.izy n)) (fun s v t => { t with p := { s.p with n := decide (128 ≤ (s.a - v).toNat), z := decide (s.a = v), c := decide (v.toNat ≤ s.a.toNat) } })) ∧
  (∀ n, Reads 0xD2 (.cmpIzp n) (.mem (.izp n)) (fun s v t => { t with p := { s.p with n := decide (128 ≤ (s.a - v).toNat), z := decide (s.a = v), c := decide (v.toNat ≤ s.a.toNat) } })) ∧
  (∀ n, Reads 0xE0 (.cpxImm n) (.imm n) (fun s v t => { t with p := { s.p with n := decide (128 ≤ (s.x - v).toNat), z := decide (s.x = v), c := decide (v.toNat ≤ s.x.toNat) } })) ∧
  (∀ n, Reads 0xE4 (.cpxZp n) (.mem (.zp n)) (fun s v t => { t with p := { s.p with n := decide (128 ≤ (s.x - v).toNat), z := decide (s.x = v), c := decide (v.toNat ≤ s.x.toNat) } })) ∧
  (∀ nn, Reads 0xEC (.cpxAbs nn) (.mem (.abs nn)) (fun s v t => { t with p := { s.p with n := decide (128 ≤ (s.x - v).toNat), z := decide (s.x = v), c := decide (v.toNat ≤ s.x.toNat) } })) ∧
  (∀ n, Reads 0xC0 (.cpyImm n) (.imm n) (fun s v t => { t with p := { s.p with n := decide (128 ≤ (s.y - v).toNat), z := decide (s.y = v), c := decide (v.toNat ≤ s.y.toNat) } })) ∧
  (∀ n, Reads 0xC4 (.cpyZp n) (.mem (.zp n)) (fun s v t => { t with p := { s.p with n := decide (128 ≤ (s.y - v).toNat), z := decide (s.y = v), c := decide (v.toNat ≤ s.y.toNat) } })) ∧
  (∀ nn, Reads 0xCC (.cpyAbs nn) (.mem (.abs nn)) (fun s v t => { t with p := { s.p with n := decide (128 ≤ (s.y - v).toNat), z := decide (s.y = v), c := decide (v.toNat ≤ s.y.toNat) } }))

/-- 42_arithmetic_logic.md R165: BIT copies bits 7 and 6 of the operand to N and V and sets Z of the AND with A. -/
def Obligations.BitTestsOperandBits : Prop :=
  (∀ n, Reads 0x24 (.bitZp n) (.mem (.zp n)) (fun s v t => { t with p := { s.p with n := decide (v.toNat / 128 = 1), v := decide (v.toNat / 64 % 2 = 1), z := decide (s.a &&& v = 0#8) } })) ∧
  (∀ nn, Reads 0x2C (.bitAbs nn) (.mem (.abs nn)) (fun s v t => { t with p := { s.p with n := decide (v.toNat / 128 = 1), v := decide (v.toNat / 64 % 2 = 1), z := decide (s.a &&& v = 0#8) } }))

/-- 42_arithmetic_logic.md R166, R167: TSB stores M or A, TRB M and not A; Z reports A and the byte before the write. -/
def Obligations.TsbTrbSetAndResetBits : Prop :=
  (∀ n, Modifies 0x04 (.tsbZp n) (.zp n) (fun s v => (v ||| s.a, { s.p with z := decide (s.a &&& v = 0#8) }))) ∧
  (∀ nn, Modifies 0x0C (.tsbAbs nn) (.abs nn) (fun s v => (v ||| s.a, { s.p with z := decide (s.a &&& v = 0#8) }))) ∧
  (∀ n, Modifies 0x14 (.trbZp n) (.zp n) (fun s v => (v &&& ~~~s.a, { s.p with z := decide (s.a &&& v = 0#8) }))) ∧
  (∀ nn, Modifies 0x1C (.trbAbs nn) (.abs nn) (fun s v => (v &&& ~~~s.a, { s.p with z := decide (s.a &&& v = 0#8) })))

/-- ASL of a byte (43_shift_incdec.md R181). -/
def Sys2Proof.Claims.asl (s : State) (v : Byte) : Byte × Flags :=
  (BitVec.ofNat 8 (2 * v.toNat),
    { nz s.p (BitVec.ofNat 8 (2 * v.toNat)) with c := decide (128 ≤ v.toNat) })

/-- LSR of a byte (43_shift_incdec.md R183). -/
def Sys2Proof.Claims.lsr (s : State) (v : Byte) : Byte × Flags :=
  (BitVec.ofNat 8 (v.toNat / 2),
    { nz s.p (BitVec.ofNat 8 (v.toNat / 2)) with n := false, c := decide (v.toNat % 2 = 1) })

/-- ROL of a byte (43_shift_incdec.md R185). -/
def Sys2Proof.Claims.rol (s : State) (v : Byte) : Byte × Flags :=
  (BitVec.ofNat 8 (2 * v.toNat + s.p.c.toNat),
    { nz s.p (BitVec.ofNat 8 (2 * v.toNat + s.p.c.toNat)) with c := decide (128 ≤ v.toNat) })

/-- ROR of a byte (43_shift_incdec.md R187). -/
def Sys2Proof.Claims.ror (s : State) (v : Byte) : Byte × Flags :=
  (BitVec.ofNat 8 (v.toNat / 2 + 128 * s.p.c.toNat),
    { nz s.p (BitVec.ofNat 8 (v.toNat / 2 + 128 * s.p.c.toNat)) with c := decide (v.toNat % 2 = 1) })

/-- INC of a byte (43_shift_incdec.md R189). -/
def Sys2Proof.Claims.inc (s : State) (v : Byte) : Byte × Flags :=
  (BitVec.ofNat 8 (v.toNat + 1), nz s.p (BitVec.ofNat 8 (v.toNat + 1)))

/-- DEC of a byte (43_shift_incdec.md R190). -/
def Sys2Proof.Claims.dec1 (s : State) (v : Byte) : Byte × Flags :=
  (BitVec.ofNat 8 (v.toNat + 255), nz s.p (BitVec.ofNat 8 (v.toNat + 255)))

/-- 43_shift_incdec.md R181, R183, R185, R187: ASL, LSR, ROL, ROR on memory in every mode. -/
def Obligations.MemoryShiftsMoveOneBit : Prop :=
  (∀ n, Modifies 0x06 (.aslZp n) (.zp n) asl) ∧
  (∀ n, Modifies 0x16 (.aslZpx n) (.zpx n) asl) ∧
  (∀ nn, Modifies 0x0E (.aslAbs nn) (.abs nn) asl) ∧
  (∀ nn, Modifies 0x1E (.aslAbx nn) (.abx nn) asl) ∧
  (∀ n, Modifies 0x46 (.lsrZp n) (.zp n) lsr) ∧
  (∀ n, Modifies 0x56 (.lsrZpx n) (.zpx n) lsr) ∧
  (∀ nn, Modifies 0x4E (.lsrAbs nn) (.abs nn) lsr) ∧
  (∀ nn, Modifies 0x5E (.lsrAbx nn) (.abx nn) lsr) ∧
  (∀ n, Modifies 0x26 (.rolZp n) (.zp n) rol) ∧
  (∀ n, Modifies 0x36 (.rolZpx n) (.zpx n) rol) ∧
  (∀ nn, Modifies 0x2E (.rolAbs nn) (.abs nn) rol) ∧
  (∀ nn, Modifies 0x3E (.rolAbx nn) (.abx nn) rol) ∧
  (∀ n, Modifies 0x66 (.rorZp n) (.zp n) ror) ∧
  (∀ n, Modifies 0x76 (.rorZpx n) (.zpx n) ror) ∧
  (∀ nn, Modifies 0x6E (.rorAbs nn) (.abs nn) ror) ∧
  (∀ nn, Modifies 0x7E (.rorAbx nn) (.abx nn) ror)

/-- 43_shift_incdec.md R182, R184, R186, R188: ASLA, LSRA, ROLA, RORA. -/
def Obligations.AccumulatorShiftsMoveOneBit : Prop :=
  (Computes 0x0A .asla fun s => { s with a := (asl s s.a).1, p := (asl s s.a).2 }) ∧
  (Computes 0x4A .lsra fun s => { s with a := (lsr s s.a).1, p := (lsr s s.a).2 }) ∧
  (Computes 0x2A .rola fun s => { s with a := (rol s s.a).1, p := (rol s s.a).2 }) ∧
  (Computes 0x6A .rora fun s => { s with a := (ror s s.a).1, p := (ror s s.a).2 })

/-- 43_shift_incdec.md R189, R190: INC and DEC on memory in every mode; C and V stay. -/
def Obligations.MemoryIncrementsWrap : Prop :=
  (∀ n, Modifies 0xE6 (.incZp n) (.zp n) inc) ∧
  (∀ n, Modifies 0xF6 (.incZpx n) (.zpx n) inc) ∧
  (∀ nn, Modifies 0xEE (.incAbs nn) (.abs nn) inc) ∧
  (∀ nn, Modifies 0xFE (.incAbx nn) (.abx nn) inc) ∧
  (∀ n, Modifies 0xC6 (.decZp n) (.zp n) dec1) ∧
  (∀ n, Modifies 0xD6 (.decZpx n) (.zpx n) dec1) ∧
  (∀ nn, Modifies 0xCE (.decAbs nn) (.abs nn) dec1) ∧
  (∀ nn, Modifies 0xDE (.decAbx nn) (.abx nn) dec1)

/-- 43_shift_incdec.md R191 to R196: INA, DEA, INX, INY, DEX, DEY. -/
def Obligations.RegisterIncrementsWrap : Prop :=
  (Computes 0x1A .ina fun s => { s with a := (inc s s.a).1, p := (inc s s.a).2 }) ∧
  (Computes 0x3A .dea fun s => { s with a := (dec1 s s.a).1, p := (dec1 s s.a).2 }) ∧
  (Computes 0xE8 .inx fun s => { s with x := (inc s s.x).1, p := (inc s s.x).2 }) ∧
  (Computes 0xC8 .iny fun s => { s with y := (inc s s.y).1, p := (inc s s.y).2 }) ∧
  (Computes 0xCA .dex fun s => { s with x := (dec1 s s.x).1, p := (dec1 s s.x).2 }) ∧
  (Computes 0x88 .dey fun s => { s with y := (dec1 s s.y).1, p := (dec1 s s.y).2 })

/-- 44_branch_jump.md R210 to R219, R222: the eight conditional branches and BRA; nothing but PC changes. -/
def Obligations.BranchesGoToNextPlusOffset : Prop :=
  (Branches 0x90 .bcc fun s => s.p.c = false) ∧
  (Branches 0xB0 .bcs fun s => s.p.c = true) ∧
  (Branches 0xF0 .beq fun s => s.p.z = true) ∧
  (Branches 0x30 .bmi fun s => s.p.n = true) ∧
  (Branches 0xD0 .bne fun s => s.p.z = false) ∧
  (Branches 0x10 .bpl fun s => s.p.n = false) ∧
  (Branches 0x50 .bvc fun s => s.p.v = false) ∧
  (Branches 0x70 .bvs fun s => s.p.v = true) ∧
  (Branches 0x80 .bra fun _ => True)

/-- 44_branch_jump.md R220, 40_addressing_modes.md R113, R114: JMP absolute, indirect, and indexed indirect. -/
def Obligations.JumpsLoadPc : Prop :=
  (∀ nn s, encode (.jmpAbs nn) = [0x4C#8, loByte nn, hiByte nn] ∧
    exec (.jmpAbs nn) s = .next { s with pc := nn }) ∧
  (∀ nn s, encode (.jmpInd nn) = [0x6C#8, loByte nn, hiByte nn] ∧
    (OffPia s [nn, nn + 1#16] →
      ∃ t, exec (.jmpInd nn) s = .next t ∧
        t.a = s.a ∧ t.x = s.x ∧ t.y = s.y ∧ t.sp = s.sp ∧ t.p = s.p) ∧
    (NoDma s → IsMemory s nn → IsMemory s (nn + 1#16) → exec (.jmpInd nn) s =
      .next { s with pc := wordOf (s.peek (nn + 1#16)) (s.peek nn) })) ∧
  (∀ nn s, encode (.jmpIax nn) = [0x7C#8, loByte nn, hiByte nn] ∧
    let q := BitVec.ofNat 16 (nn.toNat + s.x.toNat)
    (OffPia s [q, q + 1#16] →
      ∃ t, exec (.jmpIax nn) s = .next t ∧
        t.a = s.a ∧ t.x = s.x ∧ t.y = s.y ∧ t.sp = s.sp ∧ t.p = s.p) ∧
    (NoDma s → IsMemory s q → IsMemory s (q + 1#16) → exec (.jmpIax nn) s =
      .next { s with pc := wordOf (s.peek (q + 1#16)) (s.peek q) }))

/-- 44_branch_jump.md R224: JSR pushes pc0 + 2, high byte first, and goes to its operand. The trace is the model's own
record of the two pushes (log 32). -/
def Obligations.JsrPushesReturnAddress : Prop :=
  ∀ nn s, encode (.jsr nn) = [0x20#8, loByte nn, hiByte nn] ∧
    (OffPia s [stackAddr s.sp, stackAddr (s.sp - 1#8)] →
      ∃ t, exec (.jsr nn) s = .next t ∧ t.pc = nn ∧ t.sp = s.sp - 2#8 ∧
        t.a = s.a ∧ t.x = s.x ∧ t.y = s.y ∧ t.p = s.p) ∧
    (NoDma s → IsRam s (stackAddr s.sp) → IsRam s (stackAddr (s.sp - 1#8)) →
      exec (.jsr nn) s = .next { s with
        pc := nn
        sp := s.sp - 2#8
        trace := s.trace ++
          [BusEvent.write (stackAddr s.sp) (BitVec.ofNat 8 ((s.pc.toNat + 2) % 65536 / 256)),
            BusEvent.write (stackAddr (s.sp - 1#8)) (BitVec.ofNat 8 (s.pc.toNat + 2))]
        mem := Memory.write (Memory.write s.mem
          (256 + s.sp.toNat) (BitVec.ofNat 8 ((s.pc.toNat + 2) % 65536 / 256)))
          (256 + (s.sp.toNat + 255) % 256) (BitVec.ofNat 8 (s.pc.toNat + 2)) })

/-- 44_branch_jump.md R225: RTS pulls low, then high, and adds 1. -/
def Obligations.RtsReturnsPastPulledAddress : Prop :=
  encode .rts = [0x60#8] ∧ ∀ s : State,
    (OffPia s [stackAddr (s.sp + 1#8), stackAddr (s.sp + 2#8)] →
      ∃ t, exec .rts s = .next t ∧ t.sp = s.sp + 2#8 ∧
        t.a = s.a ∧ t.x = s.x ∧ t.y = s.y ∧ t.p = s.p) ∧
    (NoDma s → IsMemory s (stackAddr (s.sp + 1#8)) → IsMemory s (stackAddr (s.sp + 2#8)) →
      exec .rts s = .next { s with
        sp := s.sp + 2#8
        pc := wordOf (s.peek (stackAddr (s.sp + 2#8))) (s.peek (stackAddr (s.sp + 1#8))) + 1#16 })

/-- 44_branch_jump.md R224, R225: an RTS at the first boundary of a subroutine returns behind the JSR with S as it was. -/
def Obligations.RtsReturnsAfterJsr : Prop :=
  ∀ nn s, NoDma s → IsRam s (stackAddr s.sp) → IsRam s (stackAddr (s.sp - 1#8)) →
    ∃ t u, exec (.jsr nn) s = .next t ∧ exec .rts t = .next u ∧
      u.pc = s.pc + 3#16 ∧ u.sp = s.sp ∧ u.p = s.p ∧ u.a = s.a ∧ u.x = s.x ∧ u.y = s.y

/-- 20_memory.md R47, R48: a push stores at 0x0100 + S and then decrements S, a pull increments S and then reads
0x0100 + S; both wrap in page 1, and a pull gives back what was just pushed. -/
def Obligations.PushAndPullUseThePageOneStack : Prop :=
  ∀ (s : State) (v : Byte),
    push v s = { writeAt (BitVec.ofNat 16 (256 + s.sp.toNat)) v s with
      sp := BitVec.ofNat 8 ((s.sp.toNat + 255) % 256) } ∧
    pull s = readAt (BitVec.ofNat 16 (256 + (s.sp.toNat + 1) % 256))
      { s with sp := BitVec.ofNat 8 ((s.sp.toNat + 1) % 256) } ∧
    (NoDma s → IsRam s (stackAddr s.sp) →
      (pull (push v s)).1 = v ∧ (pull (push v s)).2.sp = s.sp)

/-- 45_stack_flag_system.md R231 to R234, 10_state.md R26: PHA, PHP, PHX, PHY; the pushed P has B and bit 5 set. -/
def Obligations.PushesStoreRegisters : Prop :=
  (Pushes 0x48 .pha fun s => s.a) ∧
  (Pushes 0x08 .php fun s => flagByte s.p true) ∧
  (Pushes 0xDA .phx fun s => s.x) ∧
  (Pushes 0x5A .phy fun s => s.y)

/-- 45_stack_flag_system.md R235 to R238, 10_state.md R27: PLA, PLX, PLY set N and Z; PLP loads all six flags. The slackI
clause of PLP is the slack of 60_exceptions.md R264 as log 12 and log 37 (DEDUCED) read it: a changed I leaves its old
value for the next boundary. -/
def Obligations.PullsLoadRegisters : Prop :=
  (Pulls 0x68 .pla (fun s v t => { t with a := v, p := nz s.p v })) ∧
  (Pulls 0xFA .plx (fun s v t => { t with x := v, p := nz s.p v })) ∧
  (Pulls 0x7A .ply (fun s v t => { t with y := v, p := nz s.p v })) ∧
  (Pulls 0x28 .plp (fun s v t =>
    { t with p := flagsOfByte v, slackI := slackAfter s (flagsOfByte v).i }))

/-- 45_stack_flag_system.md R239 to R246: CLC, CLD, CLI, CLV, SEC, SED, SEI, NOP. The slackI clauses of CLI and SEI are the
slack of 60_exceptions.md R264 as log 12 and log 37 (DEDUCED) read it: a changed I leaves its old value for the next
boundary. -/
def Obligations.FlagInstructionsChangeOneFlag : Prop :=
  (Computes 0x18 .clc fun s => { s with p := { s.p with c := false } }) ∧
  (Computes 0xD8 .cld fun s => { s with p := { s.p with d := false } }) ∧
  (Computes 0x58 .cli fun s => { s with p := { s.p with i := false }, slackI := slackAfter s false }) ∧
  (Computes 0xB8 .clv fun s => { s with p := { s.p with v := false } }) ∧
  (Computes 0x38 .sec fun s => { s with p := { s.p with c := true } }) ∧
  (Computes 0xF8 .sed fun s => { s with p := { s.p with d := true } }) ∧
  (Computes 0x78 .sei fun s => { s with p := { s.p with i := true }, slackI := slackAfter s true }) ∧
  (Computes 0xEA .nop fun s => s)

/-- 10_state.md R26, R27: the pushed image of P has the stated bit places with bit 5 set, and loading it gives the flags back
whatever B was. -/
def Obligations.StatusImageRoundTrips : Prop :=
  (∀ (p : Flags) (b : Bool), Flags.image p b = flagByte p b ∧ Flags.ofByte (Flags.image p b) = p) ∧
  (∀ v : Byte, Flags.ofByte v = flagsOfByte v)

/-- 40_addressing_modes.md R103 to R108, R111, R112, R115: the effective address of every mode, with the wraps of D15; the
pointer bytes are read from memory. -/
def Obligations.EffectiveAddressesAsStated : Prop :=
  ∀ (s : State) (n : Byte) (nn : Word), NoDma s →
    ((MemMode.zp n).address s = (BitVec.ofNat 16 n.toNat, s)) ∧
    ((MemMode.zpx n).address s = (BitVec.ofNat 16 ((n.toNat + s.x.toNat) % 256), s)) ∧
    ((MemMode.zpy n).address s = (BitVec.ofNat 16 ((n.toNat + s.y.toNat) % 256), s)) ∧
    ((MemMode.abs nn).address s = (nn, s)) ∧
    ((MemMode.abx nn).address s = (BitVec.ofNat 16 (nn.toNat + s.x.toNat), s)) ∧
    ((MemMode.aby nn).address s = (BitVec.ofNat 16 (nn.toNat + s.y.toNat), s)) ∧
    (let q := BitVec.ofNat 16 ((n.toNat + s.x.toNat) % 256)
     let q1 := BitVec.ofNat 16 ((n.toNat + s.x.toNat + 1) % 256)
     IsMemory s q → IsMemory s q1 →
      (MemMode.izx n).address s = (wordOf (s.peek q1) (s.peek q), s)) ∧
    (let q := BitVec.ofNat 16 n.toNat
     let q1 := BitVec.ofNat 16 ((n.toNat + 1) % 256)
     IsMemory s q → IsMemory s q1 →
      (MemMode.izy n).address s =
        (BitVec.ofNat 16 ((wordOf (s.peek q1) (s.peek q)).toNat + s.y.toNat), s) ∧
      (MemMode.izp n).address s = (wordOf (s.peek q1) (s.peek q), s))

/-- 20_memory.md R41, R42: what a read and a write do at RAM, ROM, nothing and a PIA register, with no DMA access due. An
unmapped read is some byte, whichever. The trace clauses are the model's own record (log 32). -/
def Obligations.AccessesFollowTheAddressMap : Prop :=
  ∀ (s : State) (a : Word) (v : Byte), NoDma s →
    (IsMemory s a → readAt a s = (s.peek a, s)) ∧
    (s.platform.target a = .unmapped → ∃ (w : Byte) (k : Nat), readAt a s = (w, { s with draws := k })) ∧
    (∀ r, s.platform.target a = .pia r →
      readAt a s = State.piaRead r { s with trace := s.trace ++ [BusEvent.piaRead a] }) ∧
    (let noted := { s with trace := s.trace ++ [BusEvent.write a v] }
     (IsRam s a → (writeAt a v s).peek a = v ∧
       (∀ b, b ≠ a → (writeAt a v s).peek b = s.peek b) ∧
       writeAt a v s = { noted with mem := (writeAt a v s).mem }) ∧
     (s.platform.target a = .rom ∨ s.platform.target a = .unmapped → writeAt a v s = noted) ∧
     (∀ r, s.platform.target a = .pia r → writeAt a v s = noted.piaWrite r v))

/-- 20_memory.md R54(a), R50: a load after a store to the same RAM address sees the stored byte, and no other byte of memory
changes. -/
def Obligations.StoreIsSeenByTheNextLoad : Prop :=
  ∀ (s : State) (nn : Word), NoDma s → IsRam s nn →
    ∃ t u, exec (.staAbs nn) s = .next t ∧ exec (.ldxAbs nn) t = .next u ∧
      u.x = s.a ∧ ∀ b, b ≠ nn → u.peek b = s.peek b

/-- 20_memory.md R59, R54: a write of the DMA agent that is due before an access is seen by that access. -/
def Obligations.DmaActsBeforeTheNextAccess : Prop :=
  ∀ (s : State) (a : Word) (v : Byte) (rest : List (List DmaAccess)), IsRam s a →
    s.dmaTurns = [.write a v] :: rest →
    (readAt a s).1 = v ∧ (readAt a s).2.dmaTurns = rest ∧
      ∀ b, b ≠ a → (readAt a s).2.peek b = s.peek b

/-- 20_memory.md R61, 70_reset_and_hazards.md R364, 93_implementation_defined.md Part 1: an instruction completes exactly
where none of the addresses it touches in a form R61 does not admit is the PIA's; otherwise it is refused with such an
address. The zero page and absolute forms of the sixteen listed mnemonics touch none. An instruction one of whose bytes
is on the PIA is refused, and so is a trap entry whose stack or vector is and a reset sequence whose vector is. That a
refusal is decided before anything changes, from all the addresses of the form, is log 14 (DEDUCED). -/
def Obligations.ForbiddenDeviceTouchesAreRefused : Prop :=
  (∀ (i : Instr) (s : State),
    (OffPia s (offDeviceAddrs i s) → ∃ t, exec i s = .next t) ∧
    (¬ OffPia s (offDeviceAddrs i s) →
      ∃ a ∈ offDeviceAddrs i s, s.platform.isPia a = true ∧ exec i s = .refused (.deviceUnsafe a)) ∧
    (i.mnemonic ∈ ["LDA", "LDX", "LDY", "STA", "STX", "STY", "STZ", "BIT", "CMP", "CPX", "CPY",
        "AND", "ORA", "EOR", "ADC", "SBC"] → i.format = .zp ∨ i.format = .abs →
      offDeviceAddrs i s = [])) ∧
  (∀ s : State, s.platform.isPia s.pc = true → runInstruction s = .refused (.deviceUnsafe s.pc)) ∧
  (∀ (s : State) (vec ret : Word) (b : Bool),
    ¬ OffPia s [stackAddr s.sp, stackAddr (s.sp - 1#8), stackAddr (s.sp - 2#8), vec, vec + 1#16] →
    ∃ a, s.platform.isPia a = true ∧ takeTrap vec ret b s = .refused (.deviceUnsafe a)) ∧
  (∀ (s : State) (len k : Nat), s.platform.isPia s.pc = false →
    opcodeLength (readAt s.pc s).1 = some len → k < len →
    s.platform.isPia (s.pc + BitVec.ofNat 16 k) = true →
    ∃ j < len, s.platform.isPia (s.pc + BitVec.ofNat 16 j) = true ∧
      runInstruction s = .refused (.deviceUnsafe (s.pc + BitVec.ofNat 16 j))) ∧
  (∀ s : State, ¬ OffPia s [0xFFFC#16, 0xFFFD#16] →
    ∃ a ∈ [0xFFFC#16, 0xFFFD#16], s.platform.isPia a = true ∧
      takeReset s = .refused (.deviceUnsafe a))

/-- The instruction files 41 to 45, 20_memory.md R60: with the DMA agent absent, an instruction changes no byte of memory but
those it stores to, whose addresses its own mode computes. -/
def Obligations.MemoryChangesOnlyWhereStored : Prop :=
  ∀ (i : Instr) (s t : State), NoDma s → exec i s = .next t →
    ∀ a, a ∉ storedAddrs i s → t.peek a = s.peek a

/-- 10_state.md R10, R11, R12, R14: which instructions write A, X, Y and S. -/
def Obligations.RegistersChangeOnlyByTheirInstructions : Prop :=
  ∀ (i : Instr) (s t : State), exec i s = .next t →
    (i.mnemonic ∉ ["ADC", "SBC", "AND", "ORA", "EOR", "ASLA", "LSRA", "ROLA", "RORA", "INA", "DEA",
      "LDA", "PLA", "TXA", "TYA"] → t.a = s.a) ∧
    (i.mnemonic ∉ ["LDX", "TAX", "TSX", "INX", "DEX", "PLX"] → t.x = s.x) ∧
    (i.mnemonic ∉ ["LDY", "TAY", "INY", "DEY", "PLY"] → t.y = s.y) ∧
    (i.mnemonic ∉ ["TXS", "PHA", "PHP", "PHX", "PHY", "PLA", "PLP", "PLX", "PLY", "JSR", "RTS", "RTI",
      "BRK"] →
      t.sp = s.sp)

/-- 10_state.md R18 to R24: which instructions write N, V, D, I, Z and C. -/
def Obligations.FlagsChangeOnlyByTheirInstructions : Prop :=
  ∀ (i : Instr) (s t : State), exec i s = .next t →
    (i.mnemonic ∉ ["ADC", "AND", "ASL", "ASLA", "BIT", "CMP", "CPX", "CPY", "DEC", "DEX", "DEY", "EOR",
      "INC", "INX", "INY", "LDA", "LDX", "LDY", "ORA", "PLP", "ROL", "ROLA", "ROR", "RORA",
      "RTI", "SBC", "TAX", "TAY", "TSX", "TXA", "TYA", "LSR", "LSRA", "PLA", "PLX", "PLY",
      "INA", "DEA"] → t.p.n = s.p.n) ∧
    (i.mnemonic ∉ ["ADC", "AND", "ASL", "ASLA", "BIT", "CMP", "CPX", "CPY", "DEC", "DEX", "DEY", "EOR",
      "INC", "INX", "INY", "LDA", "LDX", "LDY", "ORA", "PLP", "ROL", "ROLA", "ROR", "RORA",
      "RTI", "SBC", "TAX", "TAY", "TSX", "TXA", "TYA", "LSR", "LSRA", "PLA", "PLX", "PLY",
      "INA", "DEA", "TSB", "TRB"] → t.p.z = s.p.z) ∧
    (i.mnemonic ∉ ["ADC", "SBC", "BIT", "PLP", "RTI", "CLV"] → t.p.v = s.p.v) ∧
    (i.mnemonic ∉ ["SED", "CLD", "PLP", "RTI", "BRK"] → t.p.d = s.p.d) ∧
    (i.mnemonic ∉ ["SEI", "CLI", "PLP", "RTI", "BRK"] → t.p.i = s.p.i) ∧
    (i.mnemonic ∉ ["ADC", "SBC", "CMP", "CPX", "CPY", "ASL", "ASLA", "LSR", "LSRA", "ROL", "ROLA",
      "ROR", "RORA", "SEC", "CLC", "PLP", "RTI"] →
      t.p.c = s.p.c)

/-- 10_state.md R29, R34, 20_memory.md R51, R61, 60_exceptions.md R264: no instruction changes an input line, a parameter or
the agenda; the PIA, the NMI latch and the line slack change only by an access that reaches the PIA in a form R61
admits; the slack of I only by CLI, SEI, PLP, RTI. -/
def Obligations.InstructionsLeaveLinesAndDevicesAlone : Prop :=
  ∀ (i : Instr) (s t : State), exec i s = .next t →
    t.platform = s.platform ∧ t.agenda = s.agenda ∧ t.resLine = s.resLine ∧
    t.resetPending = s.resetPending ∧ t.extIrq = s.extIrq ∧ t.extNmi = s.extNmi ∧
    (i.mnemonic ∉ ["CLI", "SEI", "PLP", "RTI"] → t.slackI = s.slackI) ∧
    ((∀ a, deviceAddr i = some a → s.platform.isPia a = false) →
      t.pia = s.pia ∧ t.nmiPending = s.nmiPending ∧ t.slackLine = s.slackLine ∧
      t.pinEvents = s.pinEvents)

/-- 62_pia_r6520.md R301, R302: with RS0 = A0 and RS1 = A1 the PIA answers base to base + 3, data A, control A, data B,
control B in that order, whatever MEMMAP says. -/
def Obligations.DefaultWiringSelectsFourAddresses : Prop :=
  ∀ (p : Platform) (base a : Word), p.piaBase = some base → p.rs0Line = 0 → p.rs1Line = 1 →
    (p.target a = .pia .dataA ↔ a = base) ∧ (p.target a = .pia .controlA ↔ a = base + 1#16) ∧
    (p.target a = .pia .dataB ↔ a = base + 2#16) ∧
    (p.target a = .pia .controlB ↔ a = base + 3#16) ∧
    (p.isPia a = true ↔ (a - base).toNat < 4)

/-- A control write of `v` left a section `q` as `t`: the level of C2 by the new bits 5 to 3 and, where handshake mode was
on already, by the old ones (62_pia_r6520.md R323, R327). -/
def Sys2Proof.Claims.C2Follows (q t : PiaSection) (v : Byte) : Prop :=
  (bit v 5 = false → t.c2Driven = none) ∧
  (bit v 5 = true → t.c2Driven = some t.c2Out) ∧
  (bit v 5 = true → bit v 4 = true → t.c2Out = if bit v 3 then .high else .low) ∧
  (bit v 5 = true → bit v 4 = false → bit v 3 = true → t.c2Out = .high) ∧
  (bit v 5 = true → bit v 4 = false → bit v 3 = false →
    crBit q 5 = true → crBit q 4 = false → crBit q 3 = false → t.c2Out = q.c2Out)

/-- 62_pia_r6520.md R303, R311, R320: a write reaches the output or the data direction register by bit 2; a control write takes
bits 5 to 0, keeps bit 7, and keeps bit 6 unless bit 5 is then 1, which clears it. DIR takes the byte. R323, R327: after
a control write C2 drives nothing as an input, L or H in manual mode, H in pulse mode, its old level where handshake
mode stays, and some level, whichever, where handshake mode is new. -/
def Obligations.PiaWritesReachTheSelectedRegister : Prop :=
  ∀ (s : State) (v : Byte), s.piaInReset = false →
    ((s.piaWrite .dataA v).pia.a.outReg = if crBit s.pia.a 2 then v else s.pia.a.outReg) ∧
    ((s.piaWrite .dataA v).pia.a.ddr = if crBit s.pia.a 2 then s.pia.a.ddr else v) ∧
    ((s.piaWrite .dataA v).pia.a.cr = s.pia.a.cr) ∧
    ((s.piaWrite .dataA v).pia.b = s.pia.b) ∧
    ((s.piaWrite .dataB v).pia.b.outReg = if crBit s.pia.b 2 then v else s.pia.b.outReg) ∧
    ((s.piaWrite .dataB v).pia.b.ddr = if crBit s.pia.b 2 then s.pia.b.ddr else v) ∧
    ((s.piaWrite .dataB v).pia.b.cr = s.pia.b.cr) ∧
    ((s.piaWrite .dataB v).pia.a = s.pia.a) ∧
    (∀ k < 6, crBit (s.piaWrite .controlA v).pia.a k = bit v k ∧
      crBit (s.piaWrite .controlB v).pia.b k = bit v k) ∧
    (crBit (s.piaWrite .controlA v).pia.a 7 = crBit s.pia.a 7) ∧
    (crBit (s.piaWrite .controlB v).pia.b 7 = crBit s.pia.b 7) ∧
    (crBit (s.piaWrite .controlA v).pia.a 6 = (crBit s.pia.a 6 && !bit v 5)) ∧
    (crBit (s.piaWrite .controlB v).pia.b 6 = (crBit s.pia.b 6 && !bit v 5)) ∧
    (∀ r, (s.piaWrite r v).pia.dir = v) ∧
    C2Follows s.pia.a (s.piaWrite .controlA v).pia.a v ∧
    C2Follows s.pia.b (s.piaWrite .controlB v).pia.b v

/-- 62_pia_r6520.md R304, R307, R308, R333: the value of each line, and the flags a port read clears; a read of a control or
data direction register changes nothing at all. -/
def Obligations.PortReadsShowPinsAndOutputs : Prop :=
  ∀ s : State,
    (crBit s.pia.a 2 = true →
      (∀ k < 8, bit s.pia.a.ddr k = false → bit (s.piaRead .dataA).1 k = bit s.pia.a.pins k) ∧
      (s.platform.paReadback = .oraBit → ∀ k < 8, bit s.pia.a.ddr k = true →
        bit (s.piaRead .dataA).1 k = bit s.pia.a.outReg k) ∧
      (s.piaRead .dataA).2.pia.a.cr = s.pia.a.cr &&& 0x3F#8 ∧
      (s.piaRead .dataA).2.pia.a.irqLow = false) ∧
    (crBit s.pia.b 2 = true →
      (∀ k < 8, bit (s.piaRead .dataB).1 k =
        if bit s.pia.b.ddr k then bit s.pia.b.outReg k else bit s.pia.b.pins k) ∧
      (s.piaRead .dataB).2.pia.b.cr = s.pia.b.cr &&& 0x3F#8 ∧
      (s.piaRead .dataB).2.pia.b.irqLow = false ∧
      (s.piaRead .dataB).2.pia.b.c2Out = s.pia.b.c2Out) ∧
    (crBit s.pia.a 2 = false → (s.piaRead .dataA).1 = s.pia.a.ddr ∧
      (s.piaRead .dataA).2 = s) ∧
    (crBit s.pia.b 2 = false → (s.piaRead .dataB).1 = s.pia.b.ddr ∧
      (s.piaRead .dataB).2 = s) ∧
    ((s.piaRead .controlA).2 = s ∧ (s.piaRead .controlB).2 = s) ∧
    (∀ k < 8, bit (s.piaRead .controlA).1 k =
        (crBit s.pia.a k && !(decide (k = 6) && crBit s.pia.a 5)) ∧
      bit (s.piaRead .controlB).1 k =
        (crBit s.pia.b k && !(decide (k = 6) && crBit s.pia.b 5)))

/-- 62_pia_r6520.md R312, R313, R318, R319, R335: the active transition of C1 sets flag 7 and, in handshake mode, raises C2; that
of C2 as an input sets flag 6; a level that does not change sets nothing. -/
def Obligations.EdgeDetectorsSetFlagsOnActiveTransitions : Prop :=
  ∀ (s : State) (side : Side) (now : Level), s.piaInReset = false →
    let q := s.pia.section side
    let active (positive : Bool) (prev : Level) : Prop :=
      if positive then prev = .low ∧ now = .high else prev = .high ∧ now = .low
    (let t := (applyEnv (.c1 side now) s).pia.section side
     t.c1 = now ∧
     (active (crBit q 1) q.c1 → t.cr = q.cr ||| 0x80#8 ∧
       t.c2Out = if c2Mode q.cr = .handshake then .high else q.c2Out) ∧
     (¬ active (crBit q 1) q.c1 → t.cr = q.cr ∧ t.c2Out = q.c2Out)) ∧
    (crBit q 5 = false →
      let t := (applyEnv (.c2 side now) s).pia.section side
      t.c2 = now ∧
      (active (crBit q 4) q.c2 → t.cr = q.cr ||| 0x40#8) ∧
      (¬ active (crBit q 4) q.c2 → t.cr = q.cr))

/-- 62_pia_r6520.md R322, R326: a read of port A data drives CA2, a write of ORB drives CB2: low in handshake mode, low and
then high in pulse mode, not at all in the input and manual modes, nor where bit 2 is 0 and the access reaches the data
direction register. That pinEvents lists these levels, one driven again included, is the model's choice (log 32,
DESIGN CHOICE). -/
def Obligations.DataAccessesDriveHandshakeAndPulse : Prop :=
  ∀ (s : State) (v : Byte), s.piaInReset = false →
    (crBit s.pia.a 2 = true → c2Mode s.pia.a.cr = .handshake →
      (s.piaRead .dataA).2.pia.a.c2Out = .low ∧
      (s.piaRead .dataA).2.pinEvents = s.pinEvents ++ [⟨.a, .low⟩]) ∧
    (crBit s.pia.a 2 = true → c2Mode s.pia.a.cr = .pulse →
      (s.piaRead .dataA).2.pia.a.c2Out = .high ∧
      (s.piaRead .dataA).2.pinEvents = s.pinEvents ++ [⟨.a, .low⟩, ⟨.a, .high⟩]) ∧
    (crBit s.pia.b 2 = true → c2Mode s.pia.b.cr = .handshake →
      (s.piaWrite .dataB v).pia.b.c2Out = .low ∧
      (s.piaWrite .dataB v).pinEvents = s.pinEvents ++ [⟨.b, .low⟩]) ∧
    (crBit s.pia.b 2 = true → c2Mode s.pia.b.cr = .pulse →
      (s.piaWrite .dataB v).pia.b.c2Out = .high ∧
      (s.piaWrite .dataB v).pinEvents = s.pinEvents ++ [⟨.b, .low⟩, ⟨.b, .high⟩]) ∧
    (crBit s.pia.a 2 = false ∨ (c2Mode s.pia.a.cr ≠ .handshake ∧ c2Mode s.pia.a.cr ≠ .pulse) →
      (s.piaRead .dataA).2.pia.a.c2Out = s.pia.a.c2Out ∧
      (s.piaRead .dataA).2.pinEvents = s.pinEvents) ∧
    (crBit s.pia.b 2 = false ∨ (c2Mode s.pia.b.cr ≠ .handshake ∧ c2Mode s.pia.b.cr ≠ .pulse) →
      (s.piaWrite .dataB v).pia.b.c2Out = s.pia.b.c2Out ∧
      (s.piaWrite .dataB v).pinEvents = s.pinEvents) ∧
    ((s.piaWrite .dataA v).pia.a.c2Out = s.pia.a.c2Out ∧
      (s.piaWrite .dataA v).pinEvents = s.pinEvents) ∧
    ((s.piaRead .dataB).2.pia.b.c2Out = s.pia.b.c2Out ∧
      (s.piaRead .dataB).2.pinEvents = s.pinEvents)

/-- 62_pia_r6520.md R331, R334, 60_exceptions.md R262: the interrupt output is combinational, so enabling a flag that is set asserts
the routed line at once and disabling both flags releases it. -/
def Obligations.InterruptOutputsFollowFlagsAndEnables : Prop :=
  ∀ (s : State) (v : Byte), s.piaInReset = false → s.platform.irqaRoute = .irq →
    s.platform.irqbRoute = .irq → s.extIrq = false →
    ((s.piaWrite .controlA v).irqAsserted =
      ((bit s.pia.a.cr 7 && bit v 0) || (bit s.pia.a.cr 6 && bit v 3 && !bit v 5) ||
        (bit s.pia.b.cr 7 && bit s.pia.b.cr 0) || (bit s.pia.b.cr 6 && bit s.pia.b.cr 3))) ∧
    ((s.piaWrite .controlB v).irqAsserted =
      ((bit s.pia.a.cr 7 && bit s.pia.a.cr 0) || (bit s.pia.a.cr 6 && bit s.pia.a.cr 3) ||
        (bit s.pia.b.cr 7 && bit v 0) || (bit s.pia.b.cr 6 && bit v 3 && !bit v 5)))

/-- 62_pia_r6520.md R335, R331, 60_exceptions.md R262, R264, R271: the environment's active transition on an enabled CA1 routed to IRQ
makes the next CPU step an IRQ entry when I is 0, saving PC and P with B = 0. -/
def Obligations.Ca1EdgeInterruptsTheCpu : Prop :=
  ∀ (s : State) (prev now : Level), s.agenda = [.env (.c1 .a now)] → s.resLine = .high →
    s.resetPending = false → s.piaInReset = false → NoSlack s → s.nmiPending = false →
    s.platform.irqaRoute = .irq → s.p.i = false → s.pia.a.c1 = prev → crBit s.pia.a 0 = true →
    (if crBit s.pia.a 1 then prev = .low ∧ now = .high else prev = .high ∧ now = .low) →
    NoDma s → StackRam s → VectorMemory s 0xFFFE#16 →
    ∃ t u, step s = .next t ∧ step t = .next u ∧
      u.pc = wordOf (s.peek 0xFFFF#16) (s.peek 0xFFFE#16) ∧ u.p.i = true ∧ u.sp = s.sp - 3#8 ∧
      u.peek (stackAddr (s.sp - 2#8)) = flagByte s.p false ∧ u.a = s.a ∧ u.x = s.x ∧ u.y = s.y

/-- 60_exceptions.md R265: a high to low change of nmi_line sets nmi_pending, whether the environment, a read of the PIA or
a write of it makes the change; a line that stays low or goes high sets nothing. -/
def Obligations.NmiEdgeIsLatchedOnce : Prop :=
  ∀ s : State,
    (∀ e : EnvEvent, (applyEnv e s).nmiPending =
      (s.nmiPending || (!s.nmiLow && (applyEnv e s).nmiLow))) ∧
    (∀ r : PiaReg, (s.piaRead r).2.nmiPending =
      (s.nmiPending || (!s.nmiLow && (s.piaRead r).2.nmiLow))) ∧
    (∀ (r : PiaReg) (v : Byte), (s.piaWrite r v).nmiPending =
      (s.nmiPending || (!s.nmiLow && (s.piaWrite r v).nmiLow)))

/-- 20_memory.md R40, 62_pia_r6520.md R320, R322, R326, R337: from every state with the invariant, of every agent's move, a step
leads to a state with the invariant: memory in canonical form, flag 6 of a control register 0 while C2 is an output, the
level of C2 as its manual or pulse mode fixes it, the PIA zero while its RES is low. The canonical form of memory is
the model's own (log 1). -/
def Obligations.EveryStepKeepsTheInvariant : Prop :=
  ∀ s t : State, s.Inv → step s = .next t → t.Inv

/-- 10_state.md R33: the invariant holds at reset. The clause on canonical memory is the model's own (log 1, DESIGN
CHOICE); R33 gives the PIA's. -/
def Obligations.ResetStateHasTheInvariant : Prop :=
  State.reset.Inv

/-- 10_state.md R34: no move of any agent changes a parameter of the step relation. -/
def Obligations.ParametersNeverChange : Prop :=
  ∀ s t : State, step s = .next t → t.platform = s.platform
end

