-- ==== Sys2Proof/Laws/Memory.lean ====
section
/-! SUPPORT. The laws of memory: a read after a write, and the canonical form, which every operation keeps. -/

namespace Sys2Proof.Machine

@[simp] theorem Memory.read_nil (a : Nat) : Memory.read [] a = unlistedByte := rfl

theorem Memory.read_cons (b : Nat) (v : Byte) (m : Memory) (a : Nat) :
    Memory.read ((b, v) :: m) a = if b = a then v else Memory.read m a := rfl

theorem Memory.erase_cons (c : Host.Cell) (m : Memory) (a : Nat) :
    Memory.erase (c :: m) a = if c.1 = a then Memory.erase m a else c :: Memory.erase m a := by
  by_cases h : c.1 = a <;> simp [Memory.erase, h]

theorem Memory.read_erase_self (m : Memory) (a : Nat) :
    Memory.read (Memory.erase m a) a = unlistedByte := by
  induction m with
  | nil => rfl
  | cons c m ih =>
    rw [Memory.erase_cons]
    split
    · exact ih
    · rename_i h
      rw [show c = (c.1, c.2) from rfl, Memory.read_cons, if_neg h, ih]

theorem Memory.read_erase_ne (m : Memory) {a b : Nat} (h : b ≠ a) :
    Memory.read (Memory.erase m a) b = Memory.read m b := by
  induction m with
  | nil => rfl
  | cons c m ih =>
    rw [Memory.erase_cons, show c = (c.1, c.2) from rfl, Memory.read_cons]
    split
    · rename_i hc
      rw [if_neg (by rw [show c.1 = a from hc]; exact fun e => h e.symm), ih]
    · rw [Memory.read_cons, ih]

theorem Memory.read_insert_ne (m : Memory) {a b : Nat} (v : Byte) (h : b ≠ a) :
    Memory.read (Memory.insert m a v) b = Memory.read m b := by
  induction m with
  | nil => simp [Memory.insert, Memory.read_cons, Ne.symm h]
  | cons c m ih =>
    obtain ⟨k, w⟩ := c
    simp only [Memory.insert]
    split
    · rw [Memory.read_cons, if_neg (Ne.symm h)]
    · rw [Memory.read_cons, Memory.read_cons, ih]

theorem Memory.read_insert_self (m : Memory) (a : Nat) (v : Byte) (h : ∀ c ∈ m, c.1 ≠ a) :
    Memory.read (Memory.insert m a v) a = v := by
  induction m with
  | nil => simp [Memory.insert, Memory.read_cons]
  | cons c m ih =>
    obtain ⟨k, w⟩ := c
    simp only [Memory.insert]
    split
    · simp [Memory.read_cons]
    · rw [Memory.read_cons, if_neg (h (k, w) (by simp)), ih fun d hd => h d (by simp [hd])]

theorem Memory.erase_ne (m : Memory) (a : Nat) : ∀ c ∈ Memory.erase m a, c.1 ≠ a := by
  intro c hc
  simpa using (List.mem_filter.1 hc).2

/-- A read of the address just written gives the byte written. -/
theorem Memory.read_write_self (m : Memory) (a : Nat) (v : Byte) :
    Memory.read (Memory.write m a v) a = v := by
  unfold Memory.write
  split
  · rename_i h; rw [Memory.read_erase_self, h]
  · exact Memory.read_insert_self _ _ _ (Memory.erase_ne m a)

/-- A write leaves every other address alone. -/
theorem Memory.read_write_ne (m : Memory) {a b : Nat} (v : Byte) (h : b ≠ a) :
    Memory.read (Memory.write m a v) b = Memory.read m b := by
  unfold Memory.write
  split
  · exact Memory.read_erase_ne m h
  · rw [Memory.read_insert_ne _ _ h, Memory.read_erase_ne m h]

theorem Memory.read_write (m : Memory) (a b : Nat) (v : Byte) :
    Memory.read (Memory.write m a v) b = if b = a then v else Memory.read m b := by
  by_cases h : b = a
  · rw [if_pos h, h, Memory.read_write_self]
  · rw [if_neg h, Memory.read_write_ne m v h]

/-! The canonical form as a property of lists. -/

theorem Memory.rising_iff (m : Memory) :
    Memory.rising m = true ↔ m.Pairwise fun c d => c.1 < d.1 := by
  induction m with
  | nil => simp [Memory.rising]
  | cons c m ih =>
    cases m with
    | nil => simp [Memory.rising]
    | cons d rest =>
      simp only [Memory.rising, Bool.and_eq_true, decide_eq_true_eq, ih]
      constructor
      · rintro ⟨h, hp⟩
        refine List.pairwise_cons.2 ⟨fun e he => ?_, hp⟩
        rcases List.mem_cons.1 he with rfl | he
        · exact h
        · exact lt_trans h ((List.pairwise_cons.1 hp).1 e he)
      · intro hp
        exact ⟨(List.pairwise_cons.1 hp).1 d (by simp), (List.pairwise_cons.1 hp).2⟩

theorem Memory.wf_iff (m : Memory) :
    Memory.wf m = true ↔ (m.Pairwise fun c d => c.1 < d.1) ∧
      ∀ c ∈ m, c.1 < 65536 ∧ c.2 ≠ unlistedByte := by
  simp [Memory.wf, Memory.rising_iff, List.all_eq_true]

theorem Memory.mem_insert (m : Memory) (a : Nat) (v : Byte) (c : Host.Cell) :
    c ∈ Memory.insert m a v ↔ c = (a, v) ∨ c ∈ m := by
  induction m with
  | nil => simp [Memory.insert]
  | cons d m ih =>
    obtain ⟨k, w⟩ := d
    simp only [Memory.insert]
    split
    · simp
    · simp only [List.mem_cons, ih]
      tauto

theorem Memory.erase_wf (m : Memory) (a : Nat) (h : Memory.wf m = true) :
    Memory.wf (Memory.erase m a) = true := by
  rw [Memory.wf_iff] at h ⊢
  exact ⟨h.1.filter _, fun c hc => h.2 c (List.mem_filter.1 hc).1⟩

theorem Memory.insert_wf (m : Memory) (a : Nat) (v : Byte) (ha : a < 65536) (hv : v ≠ unlistedByte)
    (hne : ∀ c ∈ m, c.1 ≠ a) (h : Memory.wf m = true) : Memory.wf (Memory.insert m a v) = true := by
  rw [Memory.wf_iff] at h ⊢
  constructor
  · have hp := h.1
    clear h
    induction m with
    | nil => simp [Memory.insert]
    | cons d m ih =>
      obtain ⟨k, w⟩ := d
      have hp' := List.pairwise_cons.1 hp
      simp only [Memory.insert]
      split
      · rename_i hlt
        refine List.pairwise_cons.2 ⟨fun e he => ?_, hp⟩
        rcases List.mem_cons.1 he with rfl | he
        · exact hlt
        · exact lt_trans hlt (hp'.1 e he)
      · rename_i hge
        refine List.pairwise_cons.2 ⟨fun e he => ?_, ih (fun c hc => hne c (by simp [hc])) hp'.2⟩
        rcases (Memory.mem_insert m a v e).1 he with rfl | he
        · have := hne (k, w) (by simp)
          simp only at this ⊢
          omega
        · exact hp'.1 e he
  · intro c hc
    rcases (Memory.mem_insert m a v c).1 hc with rfl | hc
    · exact ⟨ha, hv⟩
    · exact h.2 c hc

/-- Every write keeps the canonical form. -/
theorem Memory.write_wf (m : Memory) (a : Nat) (v : Byte) (ha : a < 65536) (h : Memory.wf m = true) :
    Memory.wf (Memory.write m a v) = true := by
  unfold Memory.write
  split
  · exact Memory.erase_wf m a h
  · rename_i hv
    exact Memory.insert_wf _ a v ha hv (Memory.erase_ne m a) (Memory.erase_wf m a h)

/-- A write at a 16-bit address keeps the canonical form. -/
theorem Memory.write_word_wf (m : Memory) (a : Word) (v : Byte) (h : Memory.wf m = true) :
    Memory.wf (Memory.write m a.toNat v) = true := Memory.write_wf m _ v a.isLt h

theorem State.reset_mem_wf : Memory.wf State.reset.mem = true := rfl

/-- Two memories in canonical form that read alike everywhere are the same list. -/
theorem Memory.ext_of_read (m k : Memory) (hm : Memory.wf m = true) (hk : Memory.wf k = true)
    (h : ∀ a, Memory.read m a = Memory.read k a) : m = k := by
  induction m generalizing k with
  | nil =>
    cases k with
    | nil => rfl
    | cons d k =>
      have := h d.1
      rw [show d = (d.1, d.2) from rfl, Memory.read_cons, if_pos rfl, Memory.read_nil] at this
      exact absurd this.symm (((Memory.wf_iff _).1 hk).2 d (by simp)).2
  | cons c m ih =>
    have hm' := (Memory.wf_iff _).1 hm
    have low : ∀ (n : Memory) (a : Nat), (∀ e ∈ n, a < e.1) → Memory.read n a = unlistedByte := by
      intro n a hn
      induction n with
      | nil => rfl
      | cons e n ihn =>
        rw [show e = (e.1, e.2) from rfl, Memory.read_cons, if_neg (by have := hn e (by simp); omega)]
        exact ihn fun f hf => hn f (by simp [hf])
    have headc : Memory.read (c :: m) c.1 = c.2 := by
      rw [show c = (c.1, c.2) from rfl, Memory.read_cons, if_pos rfl]
    cases k with
    | nil => exact absurd (headc.symm.trans (h c.1)) (hm'.2 c (by simp)).2
    | cons d k =>
      have hk' := (Memory.wf_iff _).1 hk
      have pc := List.pairwise_cons.1 hm'.1
      have pd := List.pairwise_cons.1 hk'.1
      have headd : Memory.read (d :: k) d.1 = d.2 := by
        rw [show d = (d.1, d.2) from rfl, Memory.read_cons, if_pos rfl]
      have e1 : c.1 = d.1 := by
        rcases lt_trichotomy c.1 d.1 with hlt | heq | hgt
        · refine absurd (headc.symm.trans ((h c.1).trans (low _ _ ?_))) (hm'.2 c (by simp)).2
          intro e he
          rcases List.mem_cons.1 he with rfl | he
          · exact hlt
          · exact lt_trans hlt (pd.1 e he)
        · exact heq
        · refine absurd (headd.symm.trans ((h d.1).symm.trans (low _ _ ?_))) (hk'.2 d (by simp)).2
          intro e he
          rcases List.mem_cons.1 he with rfl | he
          · exact hgt
          · exact lt_trans hgt (pc.1 e he)
      have e2 : c.2 = d.2 := by
        have := h c.1
        rw [headc, e1, headd] at this
        exact this
      have ecd : c = d := Prod.ext e1 e2
      subst ecd
      congr 1
      refine ih k ((Memory.wf_iff _).2 ⟨pc.2, fun e he => hm'.2 e (by simp [he])⟩)
        ((Memory.wf_iff _).2 ⟨pd.2, fun e he => hk'.2 e (by simp [he])⟩) fun a => ?_
      by_cases ha : c.1 = a
      · subst ha
        rw [low m _ pc.1, low k _ pd.1]
      · have := h a
        rwa [show c = (c.1, c.2) from rfl, Memory.read_cons, Memory.read_cons, if_neg ha, if_neg ha]
          at this

end Sys2Proof.Machine
end

