-- ==== Sys2Proof/Laws/Bus.lean ====
section
/-! SUPPORT. What bus accesses and PIA accesses can change, said once per operation, and what an access
of memory does where the DMA agent is absent. -/

namespace Sys2Proof.Machine

/-- `t` agrees with `s` on everything a bus access leaves alone: registers, flags, lines, parameters. -/
structure SameCpu (s t : State) : Prop where
  a : t.a = s.a
  x : t.x = s.x
  y : t.y = s.y
  sp : t.sp = s.sp
  pc : t.pc = s.pc
  p : t.p = s.p
  platform : t.platform = s.platform
  resLine : t.resLine = s.resLine
  resetPending : t.resetPending = s.resetPending
  extIrq : t.extIrq = s.extIrq
  extNmi : t.extNmi = s.extNmi
  slackI : t.slackI = s.slackI
  agenda : t.agenda = s.agenda

theorem SameCpu.refl (s : State) : SameCpu s s := by constructor <;> rfl

theorem SameCpu.trans {s t u : State} (h : SameCpu s t) (k : SameCpu t u) : SameCpu s u where
  a := k.a.trans h.a
  x := k.x.trans h.x
  y := k.y.trans h.y
  sp := k.sp.trans h.sp
  pc := k.pc.trans h.pc
  p := k.p.trans h.p
  platform := k.platform.trans h.platform
  resLine := k.resLine.trans h.resLine
  resetPending := k.resetPending.trans h.resetPending
  extIrq := k.extIrq.trans h.extIrq
  extNmi := k.extNmi.trans h.extNmi
  slackI := k.slackI.trans h.slackI
  agenda := k.agenda.trans h.agenda

/-- `t` agrees with `s` on everything a PIA access leaves alone: also memory and the DMA agent. -/
structure PiaOnly (s t : State) : Prop extends SameCpu s t where
  mem : t.mem = s.mem
  dmaTurns : t.dmaTurns = s.dmaTurns
  trace : t.trace = s.trace

theorem PiaOnly.refl (s : State) : PiaOnly s s := by constructor <;> first | exact SameCpu.refl s | rfl

theorem PiaOnly.trans {s t u : State} (h : PiaOnly s t) (k : PiaOnly t u) : PiaOnly s u where
  toSameCpu := h.toSameCpu.trans k.toSameCpu
  mem := k.mem.trans h.mem
  dmaTurns := k.dmaTurns.trans h.dmaTurns
  trace := k.trace.trans h.trace

/-! The PIA's operations. -/

theorem updSection_piaOnly (side : Side) (f : PiaSection → PiaSection) (s : State) :
    PiaOnly s (s.updSection side f) := by
  cases side <;> exact ⟨by constructor <;> rfl, rfl, rfl, rfl⟩

theorem driveC2_piaOnly (side : Side) (l : Level) (s : State) : PiaOnly s (s.driveC2 side l) := by
  cases side <;> exact ⟨by constructor <;> rfl, rfl, rfl, rfl⟩

theorem strobeC2_piaOnly (side : Side) (s : State) : PiaOnly s (s.strobeC2 side) := by
  unfold State.strobeC2
  split
  · exact driveC2_piaOnly _ _ _
  · exact (driveC2_piaOnly _ _ _).trans (driveC2_piaOnly _ _ _)
  all_goals exact PiaOnly.refl s

theorem draw_piaOnly (s : State) (k : Nat) : PiaOnly s { s with draws := k } :=
  ⟨by constructor <;> rfl, rfl, rfl, rfl⟩

theorem dir_piaOnly (s : State) (v : Byte) : PiaOnly s { s with pia := { s.pia with dir := v } } :=
  ⟨by constructor <;> rfl, rfl, rfl, rfl⟩

theorem portARead_piaOnly (s : State) : PiaOnly s s.portARead.2 := by
  unfold State.portARead
  dsimp only
  split
  · exact PiaOnly.refl s
  · exact draw_piaOnly s _

theorem noteLine_piaOnly (old s : State) : PiaOnly s (State.noteLine old s) := by
  unfold State.noteLine
  split
  · exact PiaOnly.refl s
  · exact ⟨by constructor <;> rfl, rfl, rfl, rfl⟩

theorem latchNmi_piaOnly (old s : State) : PiaOnly s (State.latchNmi old s) := by
  unfold State.latchNmi
  split
  · exact ⟨by constructor <;> rfl, rfl, rfl, rfl⟩
  · exact PiaOnly.refl s

theorem holdPia_piaOnly (s : State) : PiaOnly s s.holdPia := by
  unfold State.holdPia
  split
  · exact (updSection_piaOnly _ _ _).trans (updSection_piaOnly _ _ _)
  · exact PiaOnly.refl s

theorem piaReadRaw_piaOnly (r : PiaReg) (s : State) : PiaOnly s (s.piaReadRaw r).2 := by
  unfold State.piaReadRaw
  cases r <;> dsimp only
  · split
    · exact ((portARead_piaOnly s).trans (updSection_piaOnly _ _ _)).trans (strobeC2_piaOnly _ _)
    · exact PiaOnly.refl s
  · exact PiaOnly.refl s
  · split
    · exact updSection_piaOnly .b PiaSection.clearFlags s
    · exact PiaOnly.refl s
  · exact PiaOnly.refl s

theorem piaRead_piaOnly (r : PiaReg) (s : State) : PiaOnly s (s.piaRead r).2 :=
  ((piaReadRaw_piaOnly r s).trans (latchNmi_piaOnly _ _)).trans (noteLine_piaOnly _ _)

theorem writeControl_piaOnly (side : Side) (v : Byte) (s : State) :
    PiaOnly s (s.writeControl side v) := by
  unfold State.writeControl
  dsimp only
  have h := updSection_piaOnly side (fun q => { q with cr := crAfterWrite q.cr v }) s
  split
  · exact h.trans (driveC2_piaOnly _ _ _)
  · exact h.trans (driveC2_piaOnly _ _ _)
  · exact h.trans (driveC2_piaOnly _ _ _)
  · split
    · exact h
    · exact (h.trans (draw_piaOnly _ _)).trans (driveC2_piaOnly _ _ _)
  · exact h

theorem writeData_piaOnly (side : Side) (v : Byte) (s : State) : PiaOnly s (s.writeData side v) := by
  unfold State.writeData
  split <;> exact updSection_piaOnly _ _ _

theorem piaWriteRaw_piaOnly (r : PiaReg) (v : Byte) (s : State) : PiaOnly s (s.piaWriteRaw r v) := by
  refine (dir_piaOnly s v).trans ?_
  unfold State.piaWriteRaw
  cases r <;> dsimp only
  · exact writeData_piaOnly _ _ _
  · exact writeControl_piaOnly _ _ _
  · split
    · exact (writeData_piaOnly _ _ _).trans (strobeC2_piaOnly _ _)
    · exact writeData_piaOnly _ _ _
  · exact writeControl_piaOnly _ _ _

theorem piaWrite_piaOnly (r : PiaReg) (v : Byte) (s : State) : PiaOnly s (s.piaWrite r v) := by
  unfold State.piaWrite
  split
  · exact (dir_piaOnly s v).trans (holdPia_piaOnly _)
  · exact ((piaWriteRaw_piaOnly r v s).trans (latchNmi_piaOnly _ _)).trans (noteLine_piaOnly _ _)

theorem changeC1_piaOnly (side : Side) (l : Level) (s : State) : PiaOnly s (s.changeC1 side l) := by
  unfold State.changeC1
  dsimp only
  split
  · split
    · exact ((updSection_piaOnly _ _ _).trans (updSection_piaOnly _ _ _)).trans (driveC2_piaOnly _ _ _)
    · exact (updSection_piaOnly _ _ _).trans (updSection_piaOnly _ _ _)
  · exact updSection_piaOnly _ _ _

theorem changeC2_piaOnly (side : Side) (l : Level) (s : State) : PiaOnly s (s.changeC2 side l) := by
  unfold State.changeC2
  dsimp only
  split
  · exact PiaOnly.refl s
  · split
    · exact (updSection_piaOnly _ _ _).trans (updSection_piaOnly _ _ _)
    · exact updSection_piaOnly _ _ _

/-! Bus accesses. -/

theorem applyDma_sameCpu (s : State) (d : DmaAccess) : SameCpu s (applyDma s d) := by
  unfold applyDma
  split
  · exact SameCpu.refl s
  · split
    · constructor <;> rfl
    all_goals exact SameCpu.refl s

theorem foldDma_sameCpu (turn : List DmaAccess) (s : State) : SameCpu s (turn.foldl applyDma s) := by
  induction turn generalizing s with
  | nil => exact SameCpu.refl s
  | cons d turn ih => exact (applyDma_sameCpu s d).trans (ih _)

theorem dmaTurn_sameCpu (s : State) : SameCpu s s.dmaTurn := by
  unfold State.dmaTurn
  split
  · exact SameCpu.refl s
  · refine SameCpu.trans ?_ (foldDma_sameCpu _ _)
    constructor <;> rfl

theorem busRead_sameCpu (a : Word) (s : State) : SameCpu s (busRead a s).2 := by
  unfold busRead
  split
  · exact SameCpu.refl _
  · exact SameCpu.refl _
  · refine SameCpu.trans ?_ (piaRead_piaOnly _ _).toSameCpu
    constructor <;> rfl
  · constructor <;> rfl

theorem busWrite_sameCpu (a : Word) (v : Byte) (s : State) : SameCpu s (busWrite a v s) := by
  unfold busWrite
  dsimp only
  split
  · constructor <;> rfl
  · constructor <;> rfl
  · refine SameCpu.trans ?_ (piaWrite_piaOnly _ _ _).toSameCpu
    constructor <;> rfl
  · constructor <;> rfl

theorem readAt_sameCpu (a : Word) (s : State) : SameCpu s (readAt a s).2 :=
  (dmaTurn_sameCpu s).trans (busRead_sameCpu a _)

theorem writeAt_sameCpu (a : Word) (v : Byte) (s : State) : SameCpu s (writeAt a v s) :=
  (dmaTurn_sameCpu s).trans (busWrite_sameCpu a v _)

theorem readWord_sameCpu (a : Word) (s : State) : SameCpu s (readWord a s).2 :=
  (readAt_sameCpu _ _).trans (readAt_sameCpu _ _)

theorem zeroPagePointer_sameCpu (p : Byte) (s : State) : SameCpu s (zeroPagePointer p s).2 :=
  (readAt_sameCpu _ _).trans (readAt_sameCpu _ _)

theorem address_sameCpu (m : MemMode) (s : State) : SameCpu s (m.address s).2 := by
  cases m <;> first | exact SameCpu.refl s | exact zeroPagePointer_sameCpu _ _

theorem load_sameCpu (o : Source) (s : State) : SameCpu s (o.load s).2 := by
  cases o with
  | imm n => exact SameCpu.refl s
  | mem m => exact (address_sameCpu m s).trans (readAt_sameCpu _ _)

/-! What `dmaTurn` leaves alone, field by field. -/

@[simp] theorem dmaTurn_a (s : State) : s.dmaTurn.a = s.a := (dmaTurn_sameCpu s).a
@[simp] theorem dmaTurn_x (s : State) : s.dmaTurn.x = s.x := (dmaTurn_sameCpu s).x
@[simp] theorem dmaTurn_y (s : State) : s.dmaTurn.y = s.y := (dmaTurn_sameCpu s).y
@[simp] theorem dmaTurn_sp (s : State) : s.dmaTurn.sp = s.sp := (dmaTurn_sameCpu s).sp
@[simp] theorem dmaTurn_pc (s : State) : s.dmaTurn.pc = s.pc := (dmaTurn_sameCpu s).pc
@[simp] theorem dmaTurn_p (s : State) : s.dmaTurn.p = s.p := (dmaTurn_sameCpu s).p
@[simp] theorem dmaTurn_platform (s : State) : s.dmaTurn.platform = s.platform := (dmaTurn_sameCpu s).platform
@[simp] theorem dmaTurn_resLine (s : State) : s.dmaTurn.resLine = s.resLine := (dmaTurn_sameCpu s).resLine
@[simp] theorem dmaTurn_resetPending (s : State) : s.dmaTurn.resetPending = s.resetPending := (dmaTurn_sameCpu s).resetPending
@[simp] theorem dmaTurn_extIrq (s : State) : s.dmaTurn.extIrq = s.extIrq := (dmaTurn_sameCpu s).extIrq
@[simp] theorem dmaTurn_extNmi (s : State) : s.dmaTurn.extNmi = s.extNmi := (dmaTurn_sameCpu s).extNmi
@[simp] theorem dmaTurn_slackI (s : State) : s.dmaTurn.slackI = s.slackI := (dmaTurn_sameCpu s).slackI
@[simp] theorem dmaTurn_agenda (s : State) : s.dmaTurn.agenda = s.agenda := (dmaTurn_sameCpu s).agenda

/-! What `readAt` leaves alone, field by field. -/

@[simp] theorem readAt_a (b : Word) (s : State) : (readAt b s).2.a = s.a := (readAt_sameCpu b s).a
@[simp] theorem readAt_x (b : Word) (s : State) : (readAt b s).2.x = s.x := (readAt_sameCpu b s).x
@[simp] theorem readAt_y (b : Word) (s : State) : (readAt b s).2.y = s.y := (readAt_sameCpu b s).y
@[simp] theorem readAt_sp (b : Word) (s : State) : (readAt b s).2.sp = s.sp := (readAt_sameCpu b s).sp
@[simp] theorem readAt_pc (b : Word) (s : State) : (readAt b s).2.pc = s.pc := (readAt_sameCpu b s).pc
@[simp] theorem readAt_p (b : Word) (s : State) : (readAt b s).2.p = s.p := (readAt_sameCpu b s).p
@[simp] theorem readAt_platform (b : Word) (s : State) : (readAt b s).2.platform = s.platform := (readAt_sameCpu b s).platform
@[simp] theorem readAt_resLine (b : Word) (s : State) : (readAt b s).2.resLine = s.resLine := (readAt_sameCpu b s).resLine
@[simp] theorem readAt_resetPending (b : Word) (s : State) : (readAt b s).2.resetPending = s.resetPending := (readAt_sameCpu b s).resetPending
@[simp] theorem readAt_extIrq (b : Word) (s : State) : (readAt b s).2.extIrq = s.extIrq := (readAt_sameCpu b s).extIrq
@[simp] theorem readAt_extNmi (b : Word) (s : State) : (readAt b s).2.extNmi = s.extNmi := (readAt_sameCpu b s).extNmi
@[simp] theorem readAt_slackI (b : Word) (s : State) : (readAt b s).2.slackI = s.slackI := (readAt_sameCpu b s).slackI
@[simp] theorem readAt_agenda (b : Word) (s : State) : (readAt b s).2.agenda = s.agenda := (readAt_sameCpu b s).agenda

/-! What `writeAt` leaves alone, field by field. -/

@[simp] theorem writeAt_a (b : Word) (w : Byte) (s : State) : (writeAt b w s).a = s.a := (writeAt_sameCpu b w s).a
@[simp] theorem writeAt_x (b : Word) (w : Byte) (s : State) : (writeAt b w s).x = s.x := (writeAt_sameCpu b w s).x
@[simp] theorem writeAt_y (b : Word) (w : Byte) (s : State) : (writeAt b w s).y = s.y := (writeAt_sameCpu b w s).y
@[simp] theorem writeAt_sp (b : Word) (w : Byte) (s : State) : (writeAt b w s).sp = s.sp := (writeAt_sameCpu b w s).sp
@[simp] theorem writeAt_pc (b : Word) (w : Byte) (s : State) : (writeAt b w s).pc = s.pc := (writeAt_sameCpu b w s).pc
@[simp] theorem writeAt_p (b : Word) (w : Byte) (s : State) : (writeAt b w s).p = s.p := (writeAt_sameCpu b w s).p
@[simp] theorem writeAt_platform (b : Word) (w : Byte) (s : State) : (writeAt b w s).platform = s.platform := (writeAt_sameCpu b w s).platform
@[simp] theorem writeAt_resLine (b : Word) (w : Byte) (s : State) : (writeAt b w s).resLine = s.resLine := (writeAt_sameCpu b w s).resLine
@[simp] theorem writeAt_resetPending (b : Word) (w : Byte) (s : State) : (writeAt b w s).resetPending = s.resetPending := (writeAt_sameCpu b w s).resetPending
@[simp] theorem writeAt_extIrq (b : Word) (w : Byte) (s : State) : (writeAt b w s).extIrq = s.extIrq := (writeAt_sameCpu b w s).extIrq
@[simp] theorem writeAt_extNmi (b : Word) (w : Byte) (s : State) : (writeAt b w s).extNmi = s.extNmi := (writeAt_sameCpu b w s).extNmi
@[simp] theorem writeAt_slackI (b : Word) (w : Byte) (s : State) : (writeAt b w s).slackI = s.slackI := (writeAt_sameCpu b w s).slackI
@[simp] theorem writeAt_agenda (b : Word) (w : Byte) (s : State) : (writeAt b w s).agenda = s.agenda := (writeAt_sameCpu b w s).agenda

/-! What `readWord` leaves alone, field by field. -/

@[simp] theorem readWord_a (b : Word) (s : State) : (readWord b s).2.a = s.a := (readWord_sameCpu b s).a
@[simp] theorem readWord_x (b : Word) (s : State) : (readWord b s).2.x = s.x := (readWord_sameCpu b s).x
@[simp] theorem readWord_y (b : Word) (s : State) : (readWord b s).2.y = s.y := (readWord_sameCpu b s).y
@[simp] theorem readWord_sp (b : Word) (s : State) : (readWord b s).2.sp = s.sp := (readWord_sameCpu b s).sp
@[simp] theorem readWord_pc (b : Word) (s : State) : (readWord b s).2.pc = s.pc := (readWord_sameCpu b s).pc
@[simp] theorem readWord_p (b : Word) (s : State) : (readWord b s).2.p = s.p := (readWord_sameCpu b s).p
@[simp] theorem readWord_platform (b : Word) (s : State) : (readWord b s).2.platform = s.platform := (readWord_sameCpu b s).platform
@[simp] theorem readWord_resLine (b : Word) (s : State) : (readWord b s).2.resLine = s.resLine := (readWord_sameCpu b s).resLine
@[simp] theorem readWord_resetPending (b : Word) (s : State) : (readWord b s).2.resetPending = s.resetPending := (readWord_sameCpu b s).resetPending
@[simp] theorem readWord_extIrq (b : Word) (s : State) : (readWord b s).2.extIrq = s.extIrq := (readWord_sameCpu b s).extIrq
@[simp] theorem readWord_extNmi (b : Word) (s : State) : (readWord b s).2.extNmi = s.extNmi := (readWord_sameCpu b s).extNmi
@[simp] theorem readWord_slackI (b : Word) (s : State) : (readWord b s).2.slackI = s.slackI := (readWord_sameCpu b s).slackI
@[simp] theorem readWord_agenda (b : Word) (s : State) : (readWord b s).2.agenda = s.agenda := (readWord_sameCpu b s).agenda

/-! What `zeroPagePointer` leaves alone, field by field. -/

@[simp] theorem zeroPagePointer_a (b : Byte) (s : State) : (zeroPagePointer b s).2.a = s.a := (zeroPagePointer_sameCpu b s).a
@[simp] theorem zeroPagePointer_x (b : Byte) (s : State) : (zeroPagePointer b s).2.x = s.x := (zeroPagePointer_sameCpu b s).x
@[simp] theorem zeroPagePointer_y (b : Byte) (s : State) : (zeroPagePointer b s).2.y = s.y := (zeroPagePointer_sameCpu b s).y
@[simp] theorem zeroPagePointer_sp (b : Byte) (s : State) : (zeroPagePointer b s).2.sp = s.sp := (zeroPagePointer_sameCpu b s).sp
@[simp] theorem zeroPagePointer_pc (b : Byte) (s : State) : (zeroPagePointer b s).2.pc = s.pc := (zeroPagePointer_sameCpu b s).pc
@[simp] theorem zeroPagePointer_p (b : Byte) (s : State) : (zeroPagePointer b s).2.p = s.p := (zeroPagePointer_sameCpu b s).p
@[simp] theorem zeroPagePointer_platform (b : Byte) (s : State) : (zeroPagePointer b s).2.platform = s.platform := (zeroPagePointer_sameCpu b s).platform
@[simp] theorem zeroPagePointer_resLine (b : Byte) (s : State) : (zeroPagePointer b s).2.resLine = s.resLine := (zeroPagePointer_sameCpu b s).resLine
@[simp] theorem zeroPagePointer_resetPending (b : Byte) (s : State) : (zeroPagePointer b s).2.resetPending = s.resetPending := (zeroPagePointer_sameCpu b s).resetPending
@[simp] theorem zeroPagePointer_extIrq (b : Byte) (s : State) : (zeroPagePointer b s).2.extIrq = s.extIrq := (zeroPagePointer_sameCpu b s).extIrq
@[simp] theorem zeroPagePointer_extNmi (b : Byte) (s : State) : (zeroPagePointer b s).2.extNmi = s.extNmi := (zeroPagePointer_sameCpu b s).extNmi
@[simp] theorem zeroPagePointer_slackI (b : Byte) (s : State) : (zeroPagePointer b s).2.slackI = s.slackI := (zeroPagePointer_sameCpu b s).slackI
@[simp] theorem zeroPagePointer_agenda (b : Byte) (s : State) : (zeroPagePointer b s).2.agenda = s.agenda := (zeroPagePointer_sameCpu b s).agenda

/-! What `address` leaves alone, field by field. -/

@[simp] theorem address_a (m : MemMode) (s : State) : (m.address s).2.a = s.a := (address_sameCpu m s).a
@[simp] theorem address_x (m : MemMode) (s : State) : (m.address s).2.x = s.x := (address_sameCpu m s).x
@[simp] theorem address_y (m : MemMode) (s : State) : (m.address s).2.y = s.y := (address_sameCpu m s).y
@[simp] theorem address_sp (m : MemMode) (s : State) : (m.address s).2.sp = s.sp := (address_sameCpu m s).sp
@[simp] theorem address_pc (m : MemMode) (s : State) : (m.address s).2.pc = s.pc := (address_sameCpu m s).pc
@[simp] theorem address_p (m : MemMode) (s : State) : (m.address s).2.p = s.p := (address_sameCpu m s).p
@[simp] theorem address_platform (m : MemMode) (s : State) : (m.address s).2.platform = s.platform := (address_sameCpu m s).platform
@[simp] theorem address_resLine (m : MemMode) (s : State) : (m.address s).2.resLine = s.resLine := (address_sameCpu m s).resLine
@[simp] theorem address_resetPending (m : MemMode) (s : State) : (m.address s).2.resetPending = s.resetPending := (address_sameCpu m s).resetPending
@[simp] theorem address_extIrq (m : MemMode) (s : State) : (m.address s).2.extIrq = s.extIrq := (address_sameCpu m s).extIrq
@[simp] theorem address_extNmi (m : MemMode) (s : State) : (m.address s).2.extNmi = s.extNmi := (address_sameCpu m s).extNmi
@[simp] theorem address_slackI (m : MemMode) (s : State) : (m.address s).2.slackI = s.slackI := (address_sameCpu m s).slackI
@[simp] theorem address_agenda (m : MemMode) (s : State) : (m.address s).2.agenda = s.agenda := (address_sameCpu m s).agenda

/-! What `load` leaves alone, field by field. -/

@[simp] theorem load_a (o : Source) (s : State) : (o.load s).2.a = s.a := (load_sameCpu o s).a
@[simp] theorem load_x (o : Source) (s : State) : (o.load s).2.x = s.x := (load_sameCpu o s).x
@[simp] theorem load_y (o : Source) (s : State) : (o.load s).2.y = s.y := (load_sameCpu o s).y
@[simp] theorem load_sp (o : Source) (s : State) : (o.load s).2.sp = s.sp := (load_sameCpu o s).sp
@[simp] theorem load_pc (o : Source) (s : State) : (o.load s).2.pc = s.pc := (load_sameCpu o s).pc
@[simp] theorem load_p (o : Source) (s : State) : (o.load s).2.p = s.p := (load_sameCpu o s).p
@[simp] theorem load_platform (o : Source) (s : State) : (o.load s).2.platform = s.platform := (load_sameCpu o s).platform
@[simp] theorem load_resLine (o : Source) (s : State) : (o.load s).2.resLine = s.resLine := (load_sameCpu o s).resLine
@[simp] theorem load_resetPending (o : Source) (s : State) : (o.load s).2.resetPending = s.resetPending := (load_sameCpu o s).resetPending
@[simp] theorem load_extIrq (o : Source) (s : State) : (o.load s).2.extIrq = s.extIrq := (load_sameCpu o s).extIrq
@[simp] theorem load_extNmi (o : Source) (s : State) : (o.load s).2.extNmi = s.extNmi := (load_sameCpu o s).extNmi
@[simp] theorem load_slackI (o : Source) (s : State) : (o.load s).2.slackI = s.slackI := (load_sameCpu o s).slackI
@[simp] theorem load_agenda (o : Source) (s : State) : (o.load s).2.agenda = s.agenda := (load_sameCpu o s).agenda

/-! Without the DMA agent. -/

/-- DMA_AGENT absent (20_memory.md R59): a CPU access sees memory as the CPU left it. -/
theorem dmaTurn_absent {s : State} (h : s.dmaTurns = []) : s.dmaTurn = s := by
  unfold State.dmaTurn
  rw [h]

theorem readAt_ram {a : Word} {s : State} (h : s.dmaTurns = []) (t : s.platform.target a = .ram) :
    readAt a s = (s.peek a, s) := by
  simp [readAt, busRead, dmaTurn_absent h, t, State.peek]

theorem readAt_rom {a : Word} {s : State} (h : s.dmaTurns = []) (t : s.platform.target a = .rom) :
    readAt a s = (s.peek a, s) := by
  simp [readAt, busRead, dmaTurn_absent h, t, State.peek]

theorem readAt_unmapped {a : Word} {s : State} (h : s.dmaTurns = [])
    (t : s.platform.target a = .unmapped) :
    readAt a s = (Config.freeByte s.draws, { s with draws := s.draws + 1 }) := by
  simp [readAt, busRead, dmaTurn_absent h, t]

theorem readAt_pia {a : Word} {s : State} {r : PiaReg} (h : s.dmaTurns = [])
    (t : s.platform.target a = .pia r) :
    readAt a s = { s with trace := s.trace ++ [BusEvent.piaRead a] }.piaRead r := by
  simp [readAt, busRead, dmaTurn_absent h, t]

theorem writeAt_ram {a : Word} {v : Byte} {s : State} (h : s.dmaTurns = [])
    (t : s.platform.target a = .ram) :
    writeAt a v s =
      { s with mem := Memory.write s.mem a.toNat v, trace := s.trace ++ [BusEvent.write a v] } := by
  simp [writeAt, busWrite, dmaTurn_absent h, t]

theorem writeAt_rom {a : Word} {v : Byte} {s : State} (h : s.dmaTurns = [])
    (t : s.platform.target a = .rom) : writeAt a v s = { s with trace := s.trace ++ [BusEvent.write a v] } := by
  simp [writeAt, busWrite, dmaTurn_absent h, t]

theorem writeAt_unmapped {a : Word} {v : Byte} {s : State} (h : s.dmaTurns = [])
    (t : s.platform.target a = .unmapped) : writeAt a v s = { s with trace := s.trace ++ [BusEvent.write a v] } := by
  simp [writeAt, busWrite, dmaTurn_absent h, t]

theorem writeAt_pia {a : Word} {v : Byte} {s : State} {r : PiaReg} (h : s.dmaTurns = [])
    (t : s.platform.target a = .pia r) :
    writeAt a v s = { s with trace := s.trace ++ [BusEvent.write a v] }.piaWrite r v := by
  simp [writeAt, busWrite, dmaTurn_absent h, t]

/-- The target of an address is the PIA exactly where the platform selects it. -/
theorem isPia_iff_target (p : Platform) (a : Word) :
    p.isPia a = true ↔ ∃ r, p.target a = .pia r := by
  unfold Platform.isPia Platform.target
  cases h : p.piaSelect a with
  | some r => simp
  | none =>
    simp only [Option.isSome_none, Bool.false_eq_true, false_iff, not_exists]
    intro r
    split
    · split <;> simp
    · simp

/-- A CPU read changes no byte of memory. -/
theorem busRead_mem (a : Word) (s : State) :
    (busRead a s).2.mem = s.mem ∧ (busRead a s).2.dmaTurns = s.dmaTurns := by
  unfold busRead
  split
  · exact ⟨rfl, rfl⟩
  · exact ⟨rfl, rfl⟩
  · rename_i r _
    have k := piaRead_piaOnly r { s with trace := s.trace ++ [BusEvent.piaRead a] }
    exact ⟨k.mem, k.dmaTurns⟩
  · exact ⟨rfl, rfl⟩

/-- A CPU write changes no byte of memory but the one at its address, and that one to the byte written, if at
all; it is recorded. -/
theorem busWrite_mem (a : Word) (v : Byte) (s : State) :
    (∀ b, b ≠ a → (busWrite a v s).peek b = s.peek b) ∧
      ((busWrite a v s).peek a = s.peek a ∨ (busWrite a v s).peek a = v) ∧
      (busWrite a v s).dmaTurns = s.dmaTurns ∧
      (busWrite a v s).trace = s.trace ++ [BusEvent.write a v] := by
  unfold busWrite
  dsimp only
  split
  · refine ⟨fun b hb => ?_, .inr ?_, rfl, rfl⟩
    · simp only [State.peek]
      exact Memory.read_write_ne _ _ fun e => hb (BitVec.eq_of_toNat_eq e)
    · simp only [State.peek]
      exact Memory.read_write_self _ _ _
  · exact ⟨fun _ _ => rfl, .inl rfl, rfl, rfl⟩
  · rename_i r _
    have k := piaWrite_piaOnly r v { s with trace := s.trace ++ [BusEvent.write a v] }
    exact ⟨fun b _ => by simp only [State.peek, k.mem], .inl (by simp only [State.peek, k.mem]),
      k.dmaTurns, k.trace⟩
  · exact ⟨fun _ _ => rfl, .inl rfl, rfl, rfl⟩

/-- Without the DMA agent a read changes no byte of memory, and the agent stays absent. -/
theorem readAt_mem {a : Word} {s : State} (h : s.dmaTurns = []) :
    (readAt a s).2.mem = s.mem ∧ (readAt a s).2.dmaTurns = [] := by
  unfold readAt
  rw [dmaTurn_absent h]
  exact ⟨(busRead_mem a s).1, (busRead_mem a s).2.trans h⟩

/-- Without the DMA agent a write changes no byte of memory but the one at its address, and the agent
stays absent. -/
theorem writeAt_mem {a : Word} {v : Byte} {s : State} (h : s.dmaTurns = []) :
    (∀ b, b ≠ a → (writeAt a v s).peek b = s.peek b) ∧ (writeAt a v s).dmaTurns = [] := by
  unfold writeAt
  rw [dmaTurn_absent h]
  exact ⟨(busWrite_mem a v s).1, (busWrite_mem a v s).2.2.1.trans h⟩

theorem readWord_mem {a : Word} {s : State} (h : s.dmaTurns = []) :
    (readWord a s).2.mem = s.mem ∧ (readWord a s).2.dmaTurns = [] := by
  have h1 := readAt_mem (a := a) h
  have h2 := readAt_mem (a := a + 1#16) h1.2
  exact ⟨h2.1.trans h1.1, h2.2⟩

theorem address_mem {m : MemMode} {s : State} (h : s.dmaTurns = []) :
    (m.address s).2.mem = s.mem ∧ (m.address s).2.dmaTurns = [] := by
  have zp : ∀ p : Byte, (zeroPagePointer p s).2.mem = s.mem ∧ (zeroPagePointer p s).2.dmaTurns = [] := by
    intro p
    have h1 := readAt_mem (a := zext p) h
    have h2 := readAt_mem (a := zext (p + 1#8)) h1.2
    exact ⟨h2.1.trans h1.1, h2.2⟩
  cases m <;> first | exact ⟨rfl, h⟩ | exact zp _

theorem load_mem {o : Source} {s : State} (h : s.dmaTurns = []) :
    (o.load s).2.mem = s.mem ∧ (o.load s).2.dmaTurns = [] := by
  cases o with
  | imm n => exact ⟨rfl, h⟩
  | mem m =>
    have h1 := address_mem (m := m) h
    have h2 := readAt_mem (a := (m.address s).1) h1.2
    exact ⟨h2.1.trans h1.1, h2.2⟩

/-! The guard of 20_memory.md R61. -/

theorem guarded_eq_next {s t u : State} {as : List Word} :
    guarded s as t = .next u ↔ (∀ a ∈ as, s.platform.isPia a = false) ∧ u = t := by
  unfold guarded
  cases h : as.find? s.platform.isPia with
  | none =>
    have := List.find?_eq_none.1 h
    simp only [Host.Outcome.next.injEq]
    exact ⟨fun e => ⟨fun a ha => by simpa using this a ha, e.symm⟩, fun e => e.2.symm⟩
  | some a =>
    simp only [reduceCtorEq, false_iff, not_and]
    intro hall
    have h1 := List.find?_some h
    rw [hall a (List.mem_of_find?_eq_some h)] at h1
    cases h1

theorem guarded_of_off {s t : State} {as : List Word} (h : ∀ a ∈ as, s.platform.isPia a = false) :
    guarded s as t = .next t := guarded_eq_next.2 ⟨h, rfl⟩

theorem guarded_refused {s t : State} {as : List Word} (h : ∃ a ∈ as, s.platform.isPia a = true) :
    ∃ a ∈ as, s.platform.isPia a = true ∧ guarded s as t = .refused (.deviceUnsafe a) := by
  unfold guarded
  cases hf : as.find? s.platform.isPia with
  | none =>
    obtain ⟨a, ha, hp⟩ := h
    exact absurd hp (List.find?_eq_none.1 hf a ha)
  | some a => exact ⟨a, List.mem_of_find?_eq_some hf, List.find?_some hf, rfl⟩

theorem guarded_ne_fault {s t : State} {as : List Word} (f : Fault) : guarded s as t ≠ .fault f :=
  nomatch f

end Sys2Proof.Machine
end

