-- ==== Sys2Proof/Laws/Exec.lean ====
section
/-! SUPPORT. What a whole instruction does on the bus, said once for every instruction: the statements
about frames and invariants follow from `exec_bus` with no instruction unfolded again. -/

namespace Sys2Proof.Machine

/-- `t` agrees with `s` on all that only a bus access, a trap or another agent can change: everything but
A, X, Y, S, PC, P, the slack of I and the count of free values. -/
structure SameBus (s t : State) : Prop where
  mem : t.mem = s.mem
  pia : t.pia = s.pia
  nmiPending : t.nmiPending = s.nmiPending
  slackLine : t.slackLine = s.slackLine
  pinEvents : t.pinEvents = s.pinEvents
  trace : t.trace = s.trace
  dmaTurns : t.dmaTurns = s.dmaTurns
  agenda : t.agenda = s.agenda
  platform : t.platform = s.platform
  resLine : t.resLine = s.resLine
  resetPending : t.resetPending = s.resetPending
  extIrq : t.extIrq = s.extIrq
  extNmi : t.extNmi = s.extNmi

theorem SameBus.refl (s : State) : SameBus s s := by constructor <;> rfl

theorem SameBus.trans {s t u : State} (h : SameBus s t) (k : SameBus t u) : SameBus s u where
  mem := k.mem.trans h.mem
  pia := k.pia.trans h.pia
  nmiPending := k.nmiPending.trans h.nmiPending
  slackLine := k.slackLine.trans h.slackLine
  pinEvents := k.pinEvents.trans h.pinEvents
  trace := k.trace.trans h.trace
  dmaTurns := k.dmaTurns.trans h.dmaTurns
  agenda := k.agenda.trans h.agenda
  platform := k.platform.trans h.platform
  resLine := k.resLine.trans h.resLine
  resetPending := k.resetPending.trans h.resetPending
  extIrq := k.extIrq.trans h.extIrq
  extNmi := k.extNmi.trans h.extNmi

/-- One bus access. -/
inductive BusOp where
  | read (a : Word)
  | write (a : Word) (v : Byte)
  deriving DecidableEq, Repr

/-- The address of an access. -/
def BusOp.addr : BusOp → Word
  | .read a => a
  | .write a _ => a

/-- The addresses a list of accesses stores to. -/
def storesOf (ops : List BusOp) : List Word :=
  ops.filterMap fun o => match o with
    | .read _ => none
    | .write a _ => some a

/-- `t` is reached from `s` by these bus accesses, oldest first, and changes the bus does not see. -/
inductive Accesses : State → List BusOp → State → Prop where
  | done {s t : State} : SameBus s t → Accesses s [] t
  | read {s u t : State} {a : Word} {ops : List BusOp} :
      SameBus s u → Accesses (readAt a u).2 ops t → Accesses s (.read a :: ops) t
  | write {s u t : State} {a : Word} {v : Byte} {ops : List BusOp} :
      SameBus s u → Accesses (writeAt a v u) ops t → Accesses s (.write a v :: ops) t

theorem Accesses.before {s u t : State} {ops : List BusOp} (h : SameBus s u) (k : Accesses u ops t) :
    Accesses s ops t := by
  cases k with
  | done k => exact .done (h.trans k)
  | read k l => exact .read (h.trans k) l
  | write k l => exact .write (h.trans k) l

theorem Accesses.append {s u t : State} {ops more : List BusOp} (h : Accesses s ops u)
    (k : Accesses u more t) : Accesses s (ops ++ more) t := by
  induction h with
  | done h => exact k.before h
  | read h _ ih => exact .read h (ih k)
  | write h _ ih => exact .write h (ih k)

theorem Accesses.after {s u t : State} {ops : List BusOp} (h : Accesses s ops u) (k : SameBus u t) :
    Accesses s ops t := by simpa using h.append (.done k)

theorem readAt_accesses (a : Word) (s : State) : Accesses s [.read a] (readAt a s).2 :=
  .read (SameBus.refl s) (.done (SameBus.refl _))

theorem writeAt_accesses (a : Word) (v : Byte) (s : State) : Accesses s [.write a v] (writeAt a v s) :=
  .write (SameBus.refl s) (.done (SameBus.refl _))

theorem push_accesses (v : Byte) (s : State) : Accesses s [.write (stackAddr s.sp) v] (push v s) :=
  (writeAt_accesses _ v s).after (by constructor <;> rfl)

theorem pull_accesses (s : State) : Accesses s [.read (stackAddr (s.sp + 1#8))] (pull s).2 :=
  .read (u := { s with sp := s.sp + 1#8 }) (by constructor <;> rfl) (.done (SameBus.refl _))

@[simp] theorem push_sp (v : Byte) (s : State) : (push v s).sp = s.sp - 1#8 := by simp [push]

@[simp] theorem pull_sp (s : State) : (pull s).2.sp = s.sp + 1#8 := by simp [pull]

theorem pushWord_accesses (w : Word) (s : State) :
    Accesses s [.write (stackAddr s.sp) (hiByte w), .write (stackAddr (s.sp - 1#8)) (loByte w)]
      (pushWord w s) := by
  have h := (push_accesses (hiByte w) s).append (push_accesses (loByte w) (push (hiByte w) s))
  simpa [pushWord] using h

theorem pullWord_accesses (s : State) :
    Accesses s [.read (stackAddr (s.sp + 1#8)), .read (stackAddr (s.sp + 1#8 + 1#8))] (pullWord s).2 := by
  have h := (pull_accesses s).append (pull_accesses (pull s).2)
  simpa [pullWord] using h

theorem readWord_accesses (a : Word) (s : State) :
    Accesses s [.read a, .read (a + 1#16)] (readWord a s).2 :=
  (readAt_accesses a s).append (readAt_accesses (a + 1#16) _)

theorem zeroPagePointer_accesses (p : Byte) (s : State) :
    Accesses s [.read (zext p), .read (zext (p + 1#8))] (zeroPagePointer p s).2 :=
  (readAt_accesses _ s).append (readAt_accesses _ _)

/-- Computing an effective address reads the mode's pointer bytes. -/
theorem address_accesses (m : MemMode) (s : State) :
    Accesses s ((m.pointers s).map .read) (m.address s).2 := by
  cases m <;> first | exact .done (SameBus.refl s) | exact zeroPagePointer_accesses _ s

/-- What an instruction's accesses must satisfy: a store goes to a stored address, and an access is off the
PIA by the guard or is the one access 20_memory.md R61 admits. -/
structure Fits (i : Instr) (s t : State) (ops : List BusOp) : Prop where
  run : Accesses s ops t
  stored : ∀ a ∈ storesOf ops, a ∈ storedAddrs i s
  place : ∀ o ∈ ops, o.addr ∈ offDeviceAddrs i s ∨ deviceAddr i = some o.addr

theorem mem_deviceTouched (m : MemMode) (s : State) :
    (∀ a ∈ m.pointers s, a ∈ m.deviceTouched s) ∧
      ((m.address s).1 ∈ m.deviceTouched s ∨ m.deviceAddr = some (m.address s).1) := by
  cases m <;>
    simp [MemMode.pointers, MemMode.deviceTouched, MemMode.touched, MemMode.deviceAddr, MemMode.address]

theorem guarded_next {s t u : State} {as : List Word} (h : guarded s as t = .next u) : u = t :=
  (guarded_eq_next.1 h).2

theorem advance_sameBus (s : State) (n : Nat) : SameBus s (s.advance n) := by constructor <;> rfl

theorem noteI_sameBus (b : Bool) (s : State) : SameBus s (State.noteI b s) := by
  unfold State.noteI
  split <;> constructor <;> rfl

theorem fits_read {i : Instr} {o : Source} {e : Byte → State → State} {s t : State}
    (hx : exec i s = readThen o e s) (ha : instrAccess i = .read o)
    (he : ∀ v u, SameBus u (e v u)) (h : exec i s = .next t) : ∃ ops, Fits i s t ops := by
  rw [hx] at h
  cases guarded_next h
  cases o with
  | imm n =>
    exact ⟨[], .done ((he _ _).trans (advance_sameBus _ _)), by simp [storesOf], by simp⟩
  | mem m =>
    refine ⟨(m.pointers s).map .read ++ [.read (m.address s).1],
      ((address_accesses m s).append (readAt_accesses _ _)).after
        ((he _ _).trans (advance_sameBus _ _)), ?_, ?_⟩
    · simp [storesOf]
    · have k := mem_deviceTouched m s
      simp only [offDeviceAddrs, deviceAddr, ha, Source.deviceTouched]
      intro o ho
      simp only [List.mem_append, List.mem_map, List.mem_singleton] at ho
      rcases ho with ⟨a, hm, rfl⟩ | rfl
      · exact .inl (k.1 a hm)
      · exact k.2

theorem fits_store {i : Instr} {m : MemMode} {v : Byte} {s t : State}
    (hx : exec i s = storeByte m v s) (ha : instrAccess i = .store m)
    (h : exec i s = .next t) : ∃ ops, Fits i s t ops := by
  rw [hx] at h
  cases guarded_next h
  refine ⟨(m.pointers s).map .read ++ [.write (m.address s).1 v],
    ((address_accesses m s).append (writeAt_accesses _ v _)).after (advance_sameBus _ _), ?_, ?_⟩
  · simp [storesOf, storedAddrs, ha]
  · have k := mem_deviceTouched m s
    simp only [offDeviceAddrs, deviceAddr, ha]
    intro o ho
    simp only [List.mem_append, List.mem_map, List.mem_singleton] at ho
    rcases ho with ⟨a, hm, rfl⟩ | rfl
    · exact .inl (k.1 a hm)
    · exact k.2

theorem modifyAt_accesses (a : Word) (f : Byte → Flags → Byte × Flags) (s : State) :
    ∃ v, Accesses s [.read a, .write a v] (modifyAt a f s) :=
  ⟨_, (readAt_accesses a s).append ((writeAt_accesses a _ _).after (by constructor <;> rfl))⟩

theorem fits_modify {i : Instr} {m : MemMode} {f : Byte → Flags → Byte × Flags} {s t : State}
    (hx : exec i s = Sys2Proof.Machine.modify m f s) (ha : instrAccess i = .modify m)
    (h : exec i s = .next t) : ∃ ops, Fits i s t ops := by
  rw [hx] at h
  cases guarded_next h
  obtain ⟨v, hv⟩ := modifyAt_accesses (m.address s).1 f (m.address s).2
  refine ⟨(m.pointers s).map .read ++ [.read (m.address s).1, .write (m.address s).1 v],
    ((address_accesses m s).append hv).after (advance_sameBus _ _), ?_, ?_⟩
  · simp [storesOf, storedAddrs, ha]
  · simp only [offDeviceAddrs, ha, MemMode.touched]
    intro o ho
    simp only [List.mem_append, List.mem_map, List.mem_cons, List.not_mem_nil, or_false] at ho ⊢
    rcases ho with ⟨a, hm, rfl⟩ | rfl | rfl
    · exact .inl (.inl hm)
    · exact .inl (.inr rfl)
    · exact .inl (.inr rfl)

theorem fits_none {i : Instr} {s t u : State} (hx : exec i s = .next u) (hu : SameBus s u)
    (h : exec i s = .next t) : ∃ ops, Fits i s t ops := by
  rw [hx] at h
  cases h
  exact ⟨[], .done hu, by simp [storesOf], by simp⟩

theorem branchIf_next (c : Bool) (a : Byte) (s : State) :
    ∃ u, branchIf c a s = .next u ∧ SameBus s u := by
  refine ⟨_, rfl, ?_⟩
  split <;> constructor <;> rfl

theorem fits_branch {i : Instr} {c : Bool} {a : Byte} {s t : State}
    (hx : exec i s = branchIf c a s) (h : exec i s = .next t) : ∃ ops, Fits i s t ops := by
  obtain ⟨u, hu, k⟩ := branchIf_next c a s
  exact fits_none (hx.trans hu) k h

theorem fits_implied {i : Instr} {s t u : State} (hx : exec i s = implied u) (hu : SameBus s u)
    (h : exec i s = .next t) : ∃ ops, Fits i s t ops :=
  fits_none hx (hu.trans (advance_sameBus u 1)) h

theorem fits_push {i : Instr} {v : Byte} {s t : State} (hx : exec i s = pushThen v s)
    (ha : instrAccess i = .push 1) (h : exec i s = .next t) : ∃ ops, Fits i s t ops := by
  rw [hx] at h
  cases guarded_next h
  exact ⟨_, (push_accesses v s).after (advance_sameBus _ _),
    by simp [storesOf, storedAddrs, ha, pushAddrs],
    by simp [offDeviceAddrs, ha, pushAddrs, BusOp.addr]⟩

theorem fits_pull {i : Instr} {e : Byte → State → State} {s t : State}
    (hx : exec i s = pullThen e s) (ha : instrAccess i = .pull 1)
    (he : ∀ v u, SameBus u (e v u)) (h : exec i s = .next t) : ∃ ops, Fits i s t ops := by
  rw [hx] at h
  cases guarded_next h
  exact ⟨_, (pull_accesses s).after ((he _ _).trans (advance_sameBus _ _)), by simp [storesOf],
    by simp [offDeviceAddrs, ha, pullAddrs, BusOp.addr]⟩

theorem fits_jumpVia {i : Instr} {x : Bool} {nn : Word} {s t : State}
    (hx : exec i s = jumpVia (pointerAddr x nn s) s) (ha : instrAccess i = .pointer x nn)
    (h : exec i s = .next t) : ∃ ops, Fits i s t ops := by
  rw [hx] at h
  cases guarded_next h
  exact ⟨_, (readWord_accesses _ s).after (by constructor <;> rfl), by simp [storesOf],
    by simp [offDeviceAddrs, ha, BusOp.addr]⟩

/-- A trap entry stores three bytes on the stack and reads its vector. -/
theorem enterTrap_accesses (vec ret : Word) (b : Bool) (s : State) :
    Accesses s
      [.write (stackAddr s.sp) (hiByte ret), .write (stackAddr (s.sp - 1#8)) (loByte ret),
        .write (stackAddr (s.sp - 1#8 - 1#8)) (Flags.image s.p b), .read vec, .read (vec + 1#16)]
      (enterTrap vec ret b s) := by
  have h1 := (pushWord_accesses ret s).append (push_accesses (Flags.image s.p b) (pushWord ret s))
  have h2 := (h1.after (t := { push (Flags.image s.p b) (pushWord ret s) with
    p := { (push (Flags.image s.p b) (pushWord ret s)).p with i := true, d := false } })
    (by constructor <;> rfl)).append (readWord_accesses vec _)
  have h3 := h2.after (t := enterTrap vec ret b s) (by constructor <;> rfl)
  simpa [pushWord] using h3

theorem fits_brk {s t : State} (h : exec .brk s = .next t) : ∃ ops, Fits .brk s t ops := by
  cases guarded_next (show guarded s _ _ = _ from h)
  exact ⟨_, enterTrap_accesses _ _ _ s,
    by simp [storesOf, storedAddrs, instrAccess, pushAddrs],
    by simp [offDeviceAddrs, instrAccess, pushAddrs, BusOp.addr]⟩

theorem fits_jsr {nn : Word} {s t : State} (h : exec (.jsr nn) s = .next t) :
    ∃ ops, Fits (.jsr nn) s t ops := by
  cases guarded_next (show guarded s _ _ = _ from h)
  exact ⟨_, (pushWord_accesses _ s).after (by constructor <;> rfl),
    by simp [storesOf, storedAddrs, instrAccess, pushAddrs],
    by simp [offDeviceAddrs, instrAccess, pushAddrs, BusOp.addr]⟩

theorem fits_rts {s t : State} (h : exec .rts s = .next t) : ∃ ops, Fits .rts s t ops := by
  cases guarded_next (show guarded s _ _ = _ from h)
  exact ⟨_, (pullWord_accesses s).after (by constructor <;> rfl), by simp [storesOf],
    by simp [offDeviceAddrs, instrAccess, pullAddrs, BusOp.addr]⟩

theorem fits_rti {s t : State} (h : exec .rti s = .next t) : ∃ ops, Fits .rti s t ops := by
  cases guarded_next (show guarded s _ _ = _ from h)
  have hs : (State.noteI s.p.i { (pull s).2 with p := Flags.ofByte (pull s).1 }).sp = s.sp + 1#8 := by
    unfold State.noteI
    split <;> simp
  have h1 := ((pull_accesses s).after (t := { (pull s).2 with p := Flags.ofByte (pull s).1 })
    (by constructor <;> rfl)).after (noteI_sameBus s.p.i _)
  have h2 := (h1.append (pullWord_accesses _)).after (t := returnFromTrap s) (by constructor <;> rfl)
  rw [hs] at h2
  exact ⟨_, h2, by simp [storesOf],
    by simp [offDeviceAddrs, instrAccess, pullAddrs, BusOp.addr]⟩

theorem loadA_sameBus (v : Byte) (s : State) : SameBus s (loadA v s) := by constructor <;> rfl

theorem loadX_sameBus (v : Byte) (s : State) : SameBus s (loadX v s) := by constructor <;> rfl

theorem loadY_sameBus (v : Byte) (s : State) : SameBus s (loadY v s) := by constructor <;> rfl

theorem loadP_sameBus (v : Byte) (s : State) : SameBus s (loadP v s) :=
  SameBus.trans (by constructor <;> rfl) (noteI_sameBus _ _)

theorem addSub_sameBus (f : Byte → Byte → Flags → Byte × Flags)
    (g : Byte → Byte → Flags → Bool → Byte × Flags) (m : Byte) (s : State) :
    SameBus s (addSub f g m s) := by
  unfold addSub
  split
  · constructor <;> rfl
  · split <;> constructor <;> rfl

theorem setFlags_sameBus (p : Flags) (s : State) : SameBus s { s with p := p } := by constructor <;> rfl

/-- What any instruction that answers a next state has done on the bus. -/
theorem exec_fits : ∀ (i : Instr) (s t : State), exec i s = .next t → ∃ ops, Fits i s t ops
  | .ldaImm _, _, _, h => fits_read rfl rfl loadA_sameBus h
  | .ldaZp _, _, _, h => fits_read rfl rfl loadA_sameBus h
  | .ldaZpx _, _, _, h => fits_read rfl rfl loadA_sameBus h
  | .ldaAbs _, _, _, h => fits_read rfl rfl loadA_sameBus h
  | .ldaAbx _, _, _, h => fits_read rfl rfl loadA_sameBus h
  | .ldaAby _, _, _, h => fits_read rfl rfl loadA_sameBus h
  | .ldaIzx _, _, _, h => fits_read rfl rfl loadA_sameBus h
  | .ldaIzy _, _, _, h => fits_read rfl rfl loadA_sameBus h
  | .ldaIzp _, _, _, h => fits_read rfl rfl loadA_sameBus h
  | .ldxImm _, _, _, h => fits_read rfl rfl loadX_sameBus h
  | .ldxZp _, _, _, h => fits_read rfl rfl loadX_sameBus h
  | .ldxZpy _, _, _, h => fits_read rfl rfl loadX_sameBus h
  | .ldxAbs _, _, _, h => fits_read rfl rfl loadX_sameBus h
  | .ldxAby _, _, _, h => fits_read rfl rfl loadX_sameBus h
  | .ldyImm _, _, _, h => fits_read rfl rfl loadY_sameBus h
  | .ldyZp _, _, _, h => fits_read rfl rfl loadY_sameBus h
  | .ldyZpx _, _, _, h => fits_read rfl rfl loadY_sameBus h
  | .ldyAbs _, _, _, h => fits_read rfl rfl loadY_sameBus h
  | .ldyAbx _, _, _, h => fits_read rfl rfl loadY_sameBus h
  | .staZp _, _, _, h => fits_store rfl rfl h
  | .staZpx _, _, _, h => fits_store rfl rfl h
  | .staAbs _, _, _, h => fits_store rfl rfl h
  | .staAbx _, _, _, h => fits_store rfl rfl h
  | .staAby _, _, _, h => fits_store rfl rfl h
  | .staIzx _, _, _, h => fits_store rfl rfl h
  | .staIzy _, _, _, h => fits_store rfl rfl h
  | .staIzp _, _, _, h => fits_store rfl rfl h
  | .stxZp _, _, _, h => fits_store rfl rfl h
  | .stxZpy _, _, _, h => fits_store rfl rfl h
  | .stxAbs _, _, _, h => fits_store rfl rfl h
  | .styZp _, _, _, h => fits_store rfl rfl h
  | .styZpx _, _, _, h => fits_store rfl rfl h
  | .styAbs _, _, _, h => fits_store rfl rfl h
  | .stzZp _, _, _, h => fits_store rfl rfl h
  | .stzZpx _, _, _, h => fits_store rfl rfl h
  | .stzAbs _, _, _, h => fits_store rfl rfl h
  | .stzAbx _, _, _, h => fits_store rfl rfl h
  | .tax, _, _, h => fits_implied rfl (by constructor <;> rfl) h
  | .tay, _, _, h => fits_implied rfl (by constructor <;> rfl) h
  | .tsx, _, _, h => fits_implied rfl (by constructor <;> rfl) h
  | .txa, _, _, h => fits_implied rfl (by constructor <;> rfl) h
  | .txs, _, _, h => fits_implied rfl (by constructor <;> rfl) h
  | .tya, _, _, h => fits_implied rfl (by constructor <;> rfl) h
  | .adcImm _, _, _, h => fits_read rfl rfl (fun v u => addSub_sameBus _ _ v u) h
  | .adcZp _, _, _, h => fits_read rfl rfl (fun v u => addSub_sameBus _ _ v u) h
  | .adcZpx _, _, _, h => fits_read rfl rfl (fun v u => addSub_sameBus _ _ v u) h
  | .adcAbs _, _, _, h => fits_read rfl rfl (fun v u => addSub_sameBus _ _ v u) h
  | .adcAbx _, _, _, h => fits_read rfl rfl (fun v u => addSub_sameBus _ _ v u) h
  | .adcAby _, _, _, h => fits_read rfl rfl (fun v u => addSub_sameBus _ _ v u) h
  | .adcIzx _, _, _, h => fits_read rfl rfl (fun v u => addSub_sameBus _ _ v u) h
  | .adcIzy _, _, _, h => fits_read rfl rfl (fun v u => addSub_sameBus _ _ v u) h
  | .adcIzp _, _, _, h => fits_read rfl rfl (fun v u => addSub_sameBus _ _ v u) h
  | .sbcImm _, _, _, h => fits_read rfl rfl (fun v u => addSub_sameBus _ _ v u) h
  | .sbcZp _, _, _, h => fits_read rfl rfl (fun v u => addSub_sameBus _ _ v u) h
  | .sbcZpx _, _, _, h => fits_read rfl rfl (fun v u => addSub_sameBus _ _ v u) h
  | .sbcAbs _, _, _, h => fits_read rfl rfl (fun v u => addSub_sameBus _ _ v u) h
  | .sbcAbx _, _, _, h => fits_read rfl rfl (fun v u => addSub_sameBus _ _ v u) h
  | .sbcAby _, _, _, h => fits_read rfl rfl (fun v u => addSub_sameBus _ _ v u) h
  | .sbcIzx _, _, _, h => fits_read rfl rfl (fun v u => addSub_sameBus _ _ v u) h
  | .sbcIzy _, _, _, h => fits_read rfl rfl (fun v u => addSub_sameBus _ _ v u) h
  | .sbcIzp _, _, _, h => fits_read rfl rfl (fun v u => addSub_sameBus _ _ v u) h
  | .andImm _, _, _, h => fits_read rfl rfl (fun _ u => loadA_sameBus _ u) h
  | .andZp _, _, _, h => fits_read rfl rfl (fun _ u => loadA_sameBus _ u) h
  | .andZpx _, _, _, h => fits_read rfl rfl (fun _ u => loadA_sameBus _ u) h
  | .andAbs _, _, _, h => fits_read rfl rfl (fun _ u => loadA_sameBus _ u) h
  | .andAbx _, _, _, h => fits_read rfl rfl (fun _ u => loadA_sameBus _ u) h
  | .andAby _, _, _, h => fits_read rfl rfl (fun _ u => loadA_sameBus _ u) h
  | .andIzx _, _, _, h => fits_read rfl rfl (fun _ u => loadA_sameBus _ u) h
  | .andIzy _, _, _, h => fits_read rfl rfl (fun _ u => loadA_sameBus _ u) h
  | .andIzp _, _, _, h => fits_read rfl rfl (fun _ u => loadA_sameBus _ u) h
  | .oraImm _, _, _, h => fits_read rfl rfl (fun _ u => loadA_sameBus _ u) h
  | .oraZp _, _, _, h => fits_read rfl rfl (fun _ u => loadA_sameBus _ u) h
  | .oraZpx _, _, _, h => fits_read rfl rfl (fun _ u => loadA_sameBus _ u) h
  | .oraAbs _, _, _, h => fits_read rfl rfl (fun _ u => loadA_sameBus _ u) h
  | .oraAbx _, _, _, h => fits_read rfl rfl (fun _ u => loadA_sameBus _ u) h
  | .oraAby _, _, _, h => fits_read rfl rfl (fun _ u => loadA_sameBus _ u) h
  | .oraIzx _, _, _, h => fits_read rfl rfl (fun _ u => loadA_sameBus _ u) h
  | .oraIzy _, _, _, h => fits_read rfl rfl (fun _ u => loadA_sameBus _ u) h
  | .oraIzp _, _, _, h => fits_read rfl rfl (fun _ u => loadA_sameBus _ u) h
  | .eorImm _, _, _, h => fits_read rfl rfl (fun _ u => loadA_sameBus _ u) h
  | .eorZp _, _, _, h => fits_read rfl rfl (fun _ u => loadA_sameBus _ u) h
  | .eorZpx _, _, _, h => fits_read rfl rfl (fun _ u => loadA_sameBus _ u) h
  | .eorAbs _, _, _, h => fits_read rfl rfl (fun _ u => loadA_sameBus _ u) h
  | .eorAbx _, _, _, h => fits_read rfl rfl (fun _ u => loadA_sameBus _ u) h
  | .eorAby _, _, _, h => fits_read rfl rfl (fun _ u => loadA_sameBus _ u) h
  | .eorIzx _, _, _, h => fits_read rfl rfl (fun _ u => loadA_sameBus _ u) h
  | .eorIzy _, _, _, h => fits_read rfl rfl (fun _ u => loadA_sameBus _ u) h
  | .eorIzp _, _, _, h => fits_read rfl rfl (fun _ u => loadA_sameBus _ u) h
  | .cmpImm _, _, _, h => fits_read rfl rfl (fun _ u => setFlags_sameBus _ u) h
  | .cmpZp _, _, _, h => fits_read rfl rfl (fun _ u => setFlags_sameBus _ u) h
  | .cmpZpx _, _, _, h => fits_read rfl rfl (fun _ u => setFlags_sameBus _ u) h
  | .cmpAbs _, _, _, h => fits_read rfl rfl (fun _ u => setFlags_sameBus _ u) h
  | .cmpAbx _, _, _, h => fits_read rfl rfl (fun _ u => setFlags_sameBus _ u) h
  | .cmpAby _, _, _, h => fits_read rfl rfl (fun _ u => setFlags_sameBus _ u) h
  | .cmpIzx _, _, _, h => fits_read rfl rfl (fun _ u => setFlags_sameBus _ u) h
  | .cmpIzy _, _, _, h => fits_read rfl rfl (fun _ u => setFlags_sameBus _ u) h
  | .cmpIzp _, _, _, h => fits_read rfl rfl (fun _ u => setFlags_sameBus _ u) h
  | .cpxImm _, _, _, h => fits_read rfl rfl (fun _ u => setFlags_sameBus _ u) h
  | .cpxZp _, _, _, h => fits_read rfl rfl (fun _ u => setFlags_sameBus _ u) h
  | .cpxAbs _, _, _, h => fits_read rfl rfl (fun _ u => setFlags_sameBus _ u) h
  | .cpyImm _, _, _, h => fits_read rfl rfl (fun _ u => setFlags_sameBus _ u) h
  | .cpyZp _, _, _, h => fits_read rfl rfl (fun _ u => setFlags_sameBus _ u) h
  | .cpyAbs _, _, _, h => fits_read rfl rfl (fun _ u => setFlags_sameBus _ u) h
  | .bitZp _, _, _, h => fits_read rfl rfl (fun _ u => setFlags_sameBus _ u) h
  | .bitAbs _, _, _, h => fits_read rfl rfl (fun _ u => setFlags_sameBus _ u) h
  | .tsbZp _, _, _, h => fits_modify rfl rfl h
  | .tsbAbs _, _, _, h => fits_modify rfl rfl h
  | .trbZp _, _, _, h => fits_modify rfl rfl h
  | .trbAbs _, _, _, h => fits_modify rfl rfl h
  | .aslZp _, _, _, h => fits_modify rfl rfl h
  | .aslZpx _, _, _, h => fits_modify rfl rfl h
  | .aslAbs _, _, _, h => fits_modify rfl rfl h
  | .aslAbx _, _, _, h => fits_modify rfl rfl h
  | .asla, _, _, h => fits_implied rfl (by constructor <;> rfl) h
  | .lsrZp _, _, _, h => fits_modify rfl rfl h
  | .lsrZpx _, _, _, h => fits_modify rfl rfl h
  | .lsrAbs _, _, _, h => fits_modify rfl rfl h
  | .lsrAbx _, _, _, h => fits_modify rfl rfl h
  | .lsra, _, _, h => fits_implied rfl (by constructor <;> rfl) h
  | .rolZp _, _, _, h => fits_modify rfl rfl h
  | .rolZpx _, _, _, h => fits_modify rfl rfl h
  | .rolAbs _, _, _, h => fits_modify rfl rfl h
  | .rolAbx _, _, _, h => fits_modify rfl rfl h
  | .rola, _, _, h => fits_implied rfl (by constructor <;> rfl) h
  | .rorZp _, _, _, h => fits_modify rfl rfl h
  | .rorZpx _, _, _, h => fits_modify rfl rfl h
  | .rorAbs _, _, _, h => fits_modify rfl rfl h
  | .rorAbx _, _, _, h => fits_modify rfl rfl h
  | .rora, _, _, h => fits_implied rfl (by constructor <;> rfl) h
  | .incZp _, _, _, h => fits_modify rfl rfl h
  | .incZpx _, _, _, h => fits_modify rfl rfl h
  | .incAbs _, _, _, h => fits_modify rfl rfl h
  | .incAbx _, _, _, h => fits_modify rfl rfl h
  | .decZp _, _, _, h => fits_modify rfl rfl h
  | .decZpx _, _, _, h => fits_modify rfl rfl h
  | .decAbs _, _, _, h => fits_modify rfl rfl h
  | .decAbx _, _, _, h => fits_modify rfl rfl h
  | .ina, _, _, h => fits_implied rfl (by constructor <;> rfl) h
  | .dea, _, _, h => fits_implied rfl (by constructor <;> rfl) h
  | .inx, _, _, h => fits_implied rfl (by constructor <;> rfl) h
  | .iny, _, _, h => fits_implied rfl (by constructor <;> rfl) h
  | .dex, _, _, h => fits_implied rfl (by constructor <;> rfl) h
  | .dey, _, _, h => fits_implied rfl (by constructor <;> rfl) h
  | .bcc _, _, _, h => fits_branch rfl h
  | .bcs _, _, _, h => fits_branch rfl h
  | .beq _, _, _, h => fits_branch rfl h
  | .bmi _, _, _, h => fits_branch rfl h
  | .bne _, _, _, h => fits_branch rfl h
  | .bpl _, _, _, h => fits_branch rfl h
  | .bvc _, _, _, h => fits_branch rfl h
  | .bvs _, _, _, h => fits_branch rfl h
  | .bra _, _, _, h => fits_branch rfl h
  | .jmpAbs _, _, _, h => fits_none rfl (by constructor <;> rfl) h
  | .jmpInd _, _, _, h => fits_jumpVia (x := false) rfl rfl h
  | .jmpIax _, _, _, h => fits_jumpVia (x := true) rfl rfl h
  | .jsr _, _, _, h => fits_jsr h
  | .rts, _, _, h => fits_rts h
  | .pha, _, _, h => fits_push rfl rfl h
  | .php, _, _, h => fits_push rfl rfl h
  | .phx, _, _, h => fits_push rfl rfl h
  | .phy, _, _, h => fits_push rfl rfl h
  | .pla, _, _, h => fits_pull rfl rfl loadA_sameBus h
  | .plp, _, _, h => fits_pull rfl rfl loadP_sameBus h
  | .plx, _, _, h => fits_pull rfl rfl loadX_sameBus h
  | .ply, _, _, h => fits_pull rfl rfl loadY_sameBus h
  | .clc, _, _, h => fits_implied rfl (by constructor <;> rfl) h
  | .cld, _, _, h => fits_implied rfl (by constructor <;> rfl) h
  | .cli, _, _, h => fits_implied rfl ((setFlags_sameBus _ _).trans (noteI_sameBus _ _)) h
  | .clv, _, _, h => fits_implied rfl (by constructor <;> rfl) h
  | .sec, _, _, h => fits_implied rfl (by constructor <;> rfl) h
  | .sed, _, _, h => fits_implied rfl (by constructor <;> rfl) h
  | .sei, _, _, h => fits_implied rfl ((setFlags_sameBus _ _).trans (noteI_sameBus _ _)) h
  | .nop, _, _, h => fits_implied rfl (by constructor <;> rfl) h
  | .brk, _, _, h => fits_brk h
  | .rti, _, _, h => fits_rti h

/-- An instruction that touches memory is one guarded transition over its `offDeviceAddrs`; one that does not
always answers a next state. -/
theorem exec_guarded : ∀ (i : Instr) (s : State),
    (∃ u, exec i s = guarded s (offDeviceAddrs i s) u) ∨
      (∃ u, exec i s = .next u ∧ offDeviceAddrs i s = [])
  | .ldaImm _, _ => .inl ⟨_, rfl⟩
  | .ldaZp _, _ => .inl ⟨_, rfl⟩
  | .ldaZpx _, _ => .inl ⟨_, rfl⟩
  | .ldaAbs _, _ => .inl ⟨_, rfl⟩
  | .ldaAbx _, _ => .inl ⟨_, rfl⟩
  | .ldaAby _, _ => .inl ⟨_, rfl⟩
  | .ldaIzx _, _ => .inl ⟨_, rfl⟩
  | .ldaIzy _, _ => .inl ⟨_, rfl⟩
  | .ldaIzp _, _ => .inl ⟨_, rfl⟩
  | .ldxImm _, _ => .inl ⟨_, rfl⟩
  | .ldxZp _, _ => .inl ⟨_, rfl⟩
  | .ldxZpy _, _ => .inl ⟨_, rfl⟩
  | .ldxAbs _, _ => .inl ⟨_, rfl⟩
  | .ldxAby _, _ => .inl ⟨_, rfl⟩
  | .ldyImm _, _ => .inl ⟨_, rfl⟩
  | .ldyZp _, _ => .inl ⟨_, rfl⟩
  | .ldyZpx _, _ => .inl ⟨_, rfl⟩
  | .ldyAbs _, _ => .inl ⟨_, rfl⟩
  | .ldyAbx _, _ => .inl ⟨_, rfl⟩
  | .staZp _, _ => .inl ⟨_, rfl⟩
  | .staZpx _, _ => .inl ⟨_, rfl⟩
  | .staAbs _, _ => .inl ⟨_, rfl⟩
  | .staAbx _, _ => .inl ⟨_, rfl⟩
  | .staAby _, _ => .inl ⟨_, rfl⟩
  | .staIzx _, _ => .inl ⟨_, rfl⟩
  | .staIzy _, _ => .inl ⟨_, rfl⟩
  | .staIzp _, _ => .inl ⟨_, rfl⟩
  | .stxZp _, _ => .inl ⟨_, rfl⟩
  | .stxZpy _, _ => .inl ⟨_, rfl⟩
  | .stxAbs _, _ => .inl ⟨_, rfl⟩
  | .styZp _, _ => .inl ⟨_, rfl⟩
  | .styZpx _, _ => .inl ⟨_, rfl⟩
  | .styAbs _, _ => .inl ⟨_, rfl⟩
  | .stzZp _, _ => .inl ⟨_, rfl⟩
  | .stzZpx _, _ => .inl ⟨_, rfl⟩
  | .stzAbs _, _ => .inl ⟨_, rfl⟩
  | .stzAbx _, _ => .inl ⟨_, rfl⟩
  | .tax, _ => .inr ⟨_, rfl, rfl⟩
  | .tay, _ => .inr ⟨_, rfl, rfl⟩
  | .tsx, _ => .inr ⟨_, rfl, rfl⟩
  | .txa, _ => .inr ⟨_, rfl, rfl⟩
  | .txs, _ => .inr ⟨_, rfl, rfl⟩
  | .tya, _ => .inr ⟨_, rfl, rfl⟩
  | .adcImm _, _ => .inl ⟨_, rfl⟩
  | .adcZp _, _ => .inl ⟨_, rfl⟩
  | .adcZpx _, _ => .inl ⟨_, rfl⟩
  | .adcAbs _, _ => .inl ⟨_, rfl⟩
  | .adcAbx _, _ => .inl ⟨_, rfl⟩
  | .adcAby _, _ => .inl ⟨_, rfl⟩
  | .adcIzx _, _ => .inl ⟨_, rfl⟩
  | .adcIzy _, _ => .inl ⟨_, rfl⟩
  | .adcIzp _, _ => .inl ⟨_, rfl⟩
  | .sbcImm _, _ => .inl ⟨_, rfl⟩
  | .sbcZp _, _ => .inl ⟨_, rfl⟩
  | .sbcZpx _, _ => .inl ⟨_, rfl⟩
  | .sbcAbs _, _ => .inl ⟨_, rfl⟩
  | .sbcAbx _, _ => .inl ⟨_, rfl⟩
  | .sbcAby _, _ => .inl ⟨_, rfl⟩
  | .sbcIzx _, _ => .inl ⟨_, rfl⟩
  | .sbcIzy _, _ => .inl ⟨_, rfl⟩
  | .sbcIzp _, _ => .inl ⟨_, rfl⟩
  | .andImm _, _ => .inl ⟨_, rfl⟩
  | .andZp _, _ => .inl ⟨_, rfl⟩
  | .andZpx _, _ => .inl ⟨_, rfl⟩
  | .andAbs _, _ => .inl ⟨_, rfl⟩
  | .andAbx _, _ => .inl ⟨_, rfl⟩
  | .andAby _, _ => .inl ⟨_, rfl⟩
  | .andIzx _, _ => .inl ⟨_, rfl⟩
  | .andIzy _, _ => .inl ⟨_, rfl⟩
  | .andIzp _, _ => .inl ⟨_, rfl⟩
  | .oraImm _, _ => .inl ⟨_, rfl⟩
  | .oraZp _, _ => .inl ⟨_, rfl⟩
  | .oraZpx _, _ => .inl ⟨_, rfl⟩
  | .oraAbs _, _ => .inl ⟨_, rfl⟩
  | .oraAbx _, _ => .inl ⟨_, rfl⟩
  | .oraAby _, _ => .inl ⟨_, rfl⟩
  | .oraIzx _, _ => .inl ⟨_, rfl⟩
  | .oraIzy _, _ => .inl ⟨_, rfl⟩
  | .oraIzp _, _ => .inl ⟨_, rfl⟩
  | .eorImm _, _ => .inl ⟨_, rfl⟩
  | .eorZp _, _ => .inl ⟨_, rfl⟩
  | .eorZpx _, _ => .inl ⟨_, rfl⟩
  | .eorAbs _, _ => .inl ⟨_, rfl⟩
  | .eorAbx _, _ => .inl ⟨_, rfl⟩
  | .eorAby _, _ => .inl ⟨_, rfl⟩
  | .eorIzx _, _ => .inl ⟨_, rfl⟩
  | .eorIzy _, _ => .inl ⟨_, rfl⟩
  | .eorIzp _, _ => .inl ⟨_, rfl⟩
  | .cmpImm _, _ => .inl ⟨_, rfl⟩
  | .cmpZp _, _ => .inl ⟨_, rfl⟩
  | .cmpZpx _, _ => .inl ⟨_, rfl⟩
  | .cmpAbs _, _ => .inl ⟨_, rfl⟩
  | .cmpAbx _, _ => .inl ⟨_, rfl⟩
  | .cmpAby _, _ => .inl ⟨_, rfl⟩
  | .cmpIzx _, _ => .inl ⟨_, rfl⟩
  | .cmpIzy _, _ => .inl ⟨_, rfl⟩
  | .cmpIzp _, _ => .inl ⟨_, rfl⟩
  | .cpxImm _, _ => .inl ⟨_, rfl⟩
  | .cpxZp _, _ => .inl ⟨_, rfl⟩
  | .cpxAbs _, _ => .inl ⟨_, rfl⟩
  | .cpyImm _, _ => .inl ⟨_, rfl⟩
  | .cpyZp _, _ => .inl ⟨_, rfl⟩
  | .cpyAbs _, _ => .inl ⟨_, rfl⟩
  | .bitZp _, _ => .inl ⟨_, rfl⟩
  | .bitAbs _, _ => .inl ⟨_, rfl⟩
  | .tsbZp _, _ => .inl ⟨_, rfl⟩
  | .tsbAbs _, _ => .inl ⟨_, rfl⟩
  | .trbZp _, _ => .inl ⟨_, rfl⟩
  | .trbAbs _, _ => .inl ⟨_, rfl⟩
  | .aslZp _, _ => .inl ⟨_, rfl⟩
  | .aslZpx _, _ => .inl ⟨_, rfl⟩
  | .aslAbs _, _ => .inl ⟨_, rfl⟩
  | .aslAbx _, _ => .inl ⟨_, rfl⟩
  | .asla, _ => .inr ⟨_, rfl, rfl⟩
  | .lsrZp _, _ => .inl ⟨_, rfl⟩
  | .lsrZpx _, _ => .inl ⟨_, rfl⟩
  | .lsrAbs _, _ => .inl ⟨_, rfl⟩
  | .lsrAbx _, _ => .inl ⟨_, rfl⟩
  | .lsra, _ => .inr ⟨_, rfl, rfl⟩
  | .rolZp _, _ => .inl ⟨_, rfl⟩
  | .rolZpx _, _ => .inl ⟨_, rfl⟩
  | .rolAbs _, _ => .inl ⟨_, rfl⟩
  | .rolAbx _, _ => .inl ⟨_, rfl⟩
  | .rola, _ => .inr ⟨_, rfl, rfl⟩
  | .rorZp _, _ => .inl ⟨_, rfl⟩
  | .rorZpx _, _ => .inl ⟨_, rfl⟩
  | .rorAbs _, _ => .inl ⟨_, rfl⟩
  | .rorAbx _, _ => .inl ⟨_, rfl⟩
  | .rora, _ => .inr ⟨_, rfl, rfl⟩
  | .incZp _, _ => .inl ⟨_, rfl⟩
  | .incZpx _, _ => .inl ⟨_, rfl⟩
  | .incAbs _, _ => .inl ⟨_, rfl⟩
  | .incAbx _, _ => .inl ⟨_, rfl⟩
  | .decZp _, _ => .inl ⟨_, rfl⟩
  | .decZpx _, _ => .inl ⟨_, rfl⟩
  | .decAbs _, _ => .inl ⟨_, rfl⟩
  | .decAbx _, _ => .inl ⟨_, rfl⟩
  | .ina, _ => .inr ⟨_, rfl, rfl⟩
  | .dea, _ => .inr ⟨_, rfl, rfl⟩
  | .inx, _ => .inr ⟨_, rfl, rfl⟩
  | .iny, _ => .inr ⟨_, rfl, rfl⟩
  | .dex, _ => .inr ⟨_, rfl, rfl⟩
  | .dey, _ => .inr ⟨_, rfl, rfl⟩
  | .bcc _, _ => .inr ⟨_, rfl, rfl⟩
  | .bcs _, _ => .inr ⟨_, rfl, rfl⟩
  | .beq _, _ => .inr ⟨_, rfl, rfl⟩
  | .bmi _, _ => .inr ⟨_, rfl, rfl⟩
  | .bne _, _ => .inr ⟨_, rfl, rfl⟩
  | .bpl _, _ => .inr ⟨_, rfl, rfl⟩
  | .bvc _, _ => .inr ⟨_, rfl, rfl⟩
  | .bvs _, _ => .inr ⟨_, rfl, rfl⟩
  | .bra _, _ => .inr ⟨_, rfl, rfl⟩
  | .jmpAbs _, _ => .inr ⟨_, rfl, rfl⟩
  | .jmpInd _, _ => .inl ⟨_, rfl⟩
  | .jmpIax _, _ => .inl ⟨_, rfl⟩
  | .jsr _, _ => .inl ⟨_, rfl⟩
  | .rts, _ => .inl ⟨_, rfl⟩
  | .pha, _ => .inl ⟨_, rfl⟩
  | .php, _ => .inl ⟨_, rfl⟩
  | .phx, _ => .inl ⟨_, rfl⟩
  | .phy, _ => .inl ⟨_, rfl⟩
  | .pla, _ => .inl ⟨_, rfl⟩
  | .plp, _ => .inl ⟨_, rfl⟩
  | .plx, _ => .inl ⟨_, rfl⟩
  | .ply, _ => .inl ⟨_, rfl⟩
  | .clc, _ => .inr ⟨_, rfl, rfl⟩
  | .cld, _ => .inr ⟨_, rfl, rfl⟩
  | .cli, _ => .inr ⟨_, rfl, rfl⟩
  | .clv, _ => .inr ⟨_, rfl, rfl⟩
  | .sec, _ => .inr ⟨_, rfl, rfl⟩
  | .sed, _ => .inr ⟨_, rfl, rfl⟩
  | .sei, _ => .inr ⟨_, rfl, rfl⟩
  | .nop, _ => .inr ⟨_, rfl, rfl⟩
  | .brk, _ => .inl ⟨_, rfl⟩
  | .rti, _ => .inl ⟨_, rfl⟩

/-- What `t` shares with `s` unless an access reaches the PIA. -/
structure SameDevice (s t : State) : Prop where
  pia : t.pia = s.pia
  nmiPending : t.nmiPending = s.nmiPending
  slackLine : t.slackLine = s.slackLine
  pinEvents : t.pinEvents = s.pinEvents

theorem SameDevice.refl (s : State) : SameDevice s s := ⟨rfl, rfl, rfl, rfl⟩

theorem SameDevice.trans {s t u : State} (h : SameDevice s t) (k : SameDevice t u) : SameDevice s u :=
  ⟨k.pia.trans h.pia, k.nmiPending.trans h.nmiPending, k.slackLine.trans h.slackLine,
    k.pinEvents.trans h.pinEvents⟩

theorem SameBus.sameDevice {s t : State} (h : SameBus s t) : SameDevice s t :=
  ⟨h.pia, h.nmiPending, h.slackLine, h.pinEvents⟩

theorem applyDma_sameDevice (s : State) (d : DmaAccess) : SameDevice s (applyDma s d) := by
  unfold applyDma
  split
  · exact SameDevice.refl s
  · split <;> exact ⟨rfl, rfl, rfl, rfl⟩

theorem foldDma_sameDevice (turn : List DmaAccess) (s : State) :
    SameDevice s (turn.foldl applyDma s) := by
  induction turn generalizing s with
  | nil => exact SameDevice.refl s
  | cons d turn ih => exact (applyDma_sameDevice s d).trans (ih _)

theorem dmaTurn_sameDevice (s : State) : SameDevice s s.dmaTurn := by
  unfold State.dmaTurn
  split
  · exact SameDevice.refl s
  · rename_i rest _
    have h : SameDevice s { s with dmaTurns := rest } := ⟨rfl, rfl, rfl, rfl⟩
    exact h.trans (foldDma_sameDevice _ _)

theorem target_ne_pia {p : Platform} {a : Word} (h : p.isPia a = false) (r : PiaReg) :
    p.target a ≠ .pia r := fun k => by
  have := (isPia_iff_target p a).2 ⟨r, k⟩
  simp [h] at this

theorem readAt_sameDevice {a : Word} {s : State} (h : s.platform.isPia a = false) :
    SameDevice s (readAt a s).2 := by
  refine (dmaTurn_sameDevice s).trans ?_
  unfold readAt busRead
  split
  · exact SameDevice.refl _
  · exact SameDevice.refl _
  · rename_i r hr
    exact absurd hr (target_ne_pia (by simpa using h) r)
  · exact ⟨rfl, rfl, rfl, rfl⟩

theorem writeAt_sameDevice {a : Word} {v : Byte} {s : State} (h : s.platform.isPia a = false) :
    SameDevice s (writeAt a v s) := by
  refine (dmaTurn_sameDevice s).trans ?_
  unfold writeAt busWrite
  dsimp only
  split
  · exact ⟨rfl, rfl, rfl, rfl⟩
  · exact ⟨rfl, rfl, rfl, rfl⟩
  · rename_i r hr
    exact absurd hr (target_ne_pia (by simpa using h) r)
  · exact ⟨rfl, rfl, rfl, rfl⟩

/-- Accesses off the PIA leave it, the NMI latch and the slack of the line alone. -/
theorem Accesses.sameDevice {s t : State} {ops : List BusOp} (h : Accesses s ops t)
    (ho : ∀ o ∈ ops, s.platform.isPia o.addr = false) : SameDevice s t := by
  induction h with
  | done h => exact h.sameDevice
  | @read s u t a ops h _ ih =>
    have ha : u.platform.isPia a = false := by
      rw [h.platform]
      exact ho (.read a) (by simp)
    refine (h.sameDevice.trans (readAt_sameDevice ha)).trans (ih fun o hm => ?_)
    simp only [readAt_platform, h.platform]
    exact ho o (by simp [hm])
  | @write s u t a v ops h _ ih =>
    have ha : u.platform.isPia a = false := by
      rw [h.platform]
      exact ho (.write a v) (by simp)
    refine (h.sameDevice.trans (writeAt_sameDevice ha)).trans (ih fun o hm => ?_)
    simp only [writeAt_platform, h.platform]
    exact ho o (by simp [hm])

/-- Without the DMA agent accesses change no byte of memory but those stored to. -/
theorem Accesses.peek {s t : State} {ops : List BusOp} (h : Accesses s ops t) (hd : NoDma s) :
    ∀ a, a ∉ storesOf ops → t.peek a = s.peek a := by
  induction h with
  | done h =>
    intro a _
    simp only [State.peek, h.mem]
  | @read s u t b ops h _ ih =>
    intro a ha
    have k := readAt_mem (a := b) (s := u) (h.dmaTurns.trans hd)
    rw [ih k.2 a (by simpa [storesOf] using ha)]
    simp only [State.peek, k.1, h.mem]
  | @write s u t b v ops h _ ih =>
    intro a ha
    have k := writeAt_mem (a := b) (v := v) (s := u) (h.dmaTurns.trans hd)
    simp only [storesOf, List.filterMap_cons, List.mem_cons, not_or] at ha
    rw [ih k.2 a (by simpa [storesOf] using ha.2), k.1 a ha.1]
    simp only [State.peek, h.mem]

/-- A property that SameBus changes, reads and writes keep is kept by any accesses. -/
theorem Accesses.keeps {P : State → Prop} (hb : ∀ s t, SameBus s t → P s → P t)
    (hr : ∀ a s, P s → P (readAt a s).2) (hw : ∀ a v s, P s → P (writeAt a v s))
    {s t : State} {ops : List BusOp} (h : Accesses s ops t) (hs : P s) : P t := by
  induction h with
  | done h => exact hb _ _ h hs
  | read h _ ih => exact ih (hr _ _ (hb _ _ h hs))
  | write h _ ih => exact ih (hw _ _ _ (hb _ _ h hs))

end Sys2Proof.Machine
end

