-- ==== Sys2Proof/Laws/Inv.lean ====
section
/-! SUPPORT. Each operation keeps the invariant of Safety.lean: the sections of the PIA first, then the bus
accesses, the DMA agent, the environment and a torn step. -/

namespace Sys2Proof.Machine

/-! One section. -/

/-- What `PiaSection.consistent` says, with the control register and the latch apart. -/
def crConsistent (cr : Byte) (c2Out : Level) : Bool :=
  !(bit cr 5 && bit cr 6) &&
    (match c2Mode cr with
     | .input => true
     | .handshake => true
     | .pulse => decide (c2Out = .high)
     | .manualLow => decide (c2Out = .low)
     | .manualHigh => decide (c2Out = .high))

theorem consistent_eq (q : PiaSection) : q.consistent = crConsistent q.cr q.c2Out := rfl

theorem crConsistent_clear : ∀ (cr : Byte) (l : Level), crConsistent cr l = true →
    crConsistent (cr &&& 0x3F#8) l = true := by
  intro cr l
  cases l <;> revert cr <;> decide

theorem crConsistent_flag1 : ∀ (cr : Byte) (l : Level), crConsistent cr l = true →
    crConsistent (cr ||| 0x80#8) l = true := by
  intro cr l
  cases l <;> revert cr <;> decide

theorem crConsistent_flag2 : ∀ (cr : Byte) (l : Level), bit cr 5 = false →
    crConsistent (cr ||| 0x40#8) l = true := by
  intro cr l
  cases l <;> revert cr <;> decide

theorem crConsistent_freeFlags : ∀ (cr : Byte) (l : Level) (f7 f6 : Bool), crConsistent cr l = true →
    crConsistent ((cr &&& 0x3F#8) ||| bitAt f7 7 ||| bitAt (f6 && !bit cr 5) 6) l = true := by
  intro cr l f7 f6
  cases l <;> cases f7 <;> cases f6 <;> revert cr <;> decide

theorem crConsistent_handshake (cr : Byte) (l l' : Level) (h : crConsistent cr l = true)
    (hm : c2Mode cr = .handshake) : crConsistent cr l' = true := by
  revert h
  simp [crConsistent, hm]

theorem c2Mode_clear : ∀ cr : Byte, c2Mode (cr &&& 0x3F#8) = c2Mode cr := by decide

theorem c2Mode_flag1 : ∀ cr : Byte, c2Mode (cr ||| 0x80#8) = c2Mode cr := by decide

theorem crAfterWrite_bit (old v : Byte) (k : Nat) (hk : k < 6) :
    bit (crAfterWrite old v) k = bit v k := by
  unfold crAfterWrite bit
  split <;> interval_cases k <;> simp

theorem crAfterWrite_bit7 (old v : Byte) : bit (crAfterWrite old v) 7 = bit old 7 := by
  unfold crAfterWrite bit
  split <;> simp

theorem crAfterWrite_bit6 (old v : Byte) :
    bit (crAfterWrite old v) 6 = (bit old 6 && !bit v 5) := by
  unfold crAfterWrite bit
  split <;> simp_all

theorem c2Mode_crAfterWrite (old v : Byte) : c2Mode (crAfterWrite old v) = c2Mode v := by
  simp only [c2Mode, crAfterWrite_bit _ _ _ (show 5 < 6 by decide),
    crAfterWrite_bit _ _ _ (show 4 < 6 by decide), crAfterWrite_bit _ _ _ (show 3 < 6 by decide)]

/-- After a control write the section is consistent for the level its mode asks for. -/
theorem crConsistent_write (old v : Byte) (l : Level)
    (hp : c2Mode v = .pulse → l = .high) (hl : c2Mode v = .manualLow → l = .low)
    (hh : c2Mode v = .manualHigh → l = .high) : crConsistent (crAfterWrite old v) l = true := by
  unfold crConsistent
  rw [c2Mode_crAfterWrite, crAfterWrite_bit6, crAfterWrite_bit _ _ _ (show 5 < 6 by decide)]
  cases hm : c2Mode v <;> cases bit v 5 <;> simp_all

/-! The whole state. -/

/-- What the invariant reads of a state. -/
theorem Inv_congr {s t : State} (hm : t.mem = s.mem) (ha : t.pia = s.pia)
    (hp : t.platform = s.platform) (hr : t.resLine = s.resLine) (h : s.Inv) : t.Inv := by
  simpa only [State.Inv, State.piaInReset, hm, ha, hp, hr] using h

theorem SameBus.inv {s t : State} (h : SameBus s t) (hs : s.Inv) : t.Inv :=
  Inv_congr h.mem h.pia h.platform h.resLine hs

/-- A section update by `f` keeps the invariant where `f` keeps what the invariant says of a section. -/
theorem updSection_inv {s : State} (side : Side) {f : PiaSection → PiaSection} (h : s.Inv)
    (hc : (f (s.pia.section side)).consistent = true)
    (hz : s.piaInReset = true → (f (s.pia.section side)).allZero = true) :
    (s.updSection side f).Inv := by
  obtain ⟨h1, h2, h3, h4⟩ := h
  cases side
  · exact ⟨h1, hc, h3, fun k => ⟨hz k, (h4 k).2⟩⟩
  · exact ⟨h1, h2, hc, fun k => ⟨(h4 k).1, hz k⟩⟩

theorem driveC2_inv {s : State} (side : Side) (l : Level) (h : s.Inv)
    (hc : crConsistent (s.pia.section side).cr l = true) : (s.driveC2 side l).Inv := by
  have k : (s.updSection side fun q => { q with c2Out := l }).Inv := by
    refine updSection_inv side h hc fun hr => ?_
    have := h.2.2.2 hr
    cases side
    · exact this.1
    · exact this.2
  exact Inv_congr (s := s.updSection side fun q => { q with c2Out := l }) rfl rfl rfl rfl k

theorem section_consistent {s : State} (side : Side) (h : s.Inv) :
    (s.pia.section side).consistent = true := by
  cases side
  · exact h.2.1
  · exact h.2.2.1

theorem section_zero {s : State} (side : Side) (h : s.Inv) (hr : s.piaInReset = true) :
    (s.pia.section side).allZero = true := by
  cases side
  · exact (h.2.2.2 hr).1
  · exact (h.2.2.2 hr).2

@[simp] theorem section_updSection (s : State) (side : Side) (f : PiaSection → PiaSection) :
    (s.updSection side f).pia.section side = f (s.pia.section side) := by
  cases side <;> rfl

@[simp] theorem section_driveC2 (s : State) (side : Side) (l : Level) :
    (s.driveC2 side l).pia.section side = { s.pia.section side with c2Out := l } := by
  cases side <;> rfl

@[simp] theorem piaInReset_updSection (s : State) (side : Side) (f : PiaSection → PiaSection) :
    (s.updSection side f).piaInReset = s.piaInReset := by
  cases side <;> rfl

@[simp] theorem piaInReset_driveC2 (s : State) (side : Side) (l : Level) :
    (s.driveC2 side l).piaInReset = s.piaInReset := by
  cases side <;> rfl

theorem strobeC2_inv {s : State} (side : Side) (h : s.Inv) : (s.strobeC2 side).Inv := by
  have hc := section_consistent side h
  unfold State.strobeC2
  split
  · rename_i hm
    exact driveC2_inv side _ h (crConsistent_handshake _ _ _ hc hm)
  · rename_i hm
    have hh : (s.pia.section side).c2Out = .high := by
      rw [consistent_eq] at hc
      simp [crConsistent, hm] at hc
      exact hc.2
    have e : (s.driveC2 side .low).driveC2 side .high =
        { s with pinEvents := s.pinEvents ++ [⟨side, .low⟩] ++ [⟨side, .high⟩] } := by
      cases side <;> simp only [Pia.section] at hh <;>
        simp only [State.driveC2, State.updSection, ← hh]
    rw [e]
    exact Inv_congr (s := s) rfl rfl rfl rfl h
  all_goals exact h

/-- In reset bit 2 of a control register is 0, so no data access reaches a port. -/
theorem notReset_of_bit2 {s : State} (side : Side) (h : s.Inv)
    (hb : bit (s.pia.section side).cr 2 = true) : s.piaInReset = false := by
  rw [← Bool.not_eq_true]
  intro hr
  have hz := section_zero side h hr
  simp only [PiaSection.allZero, Bool.and_eq_true, decide_eq_true_eq] at hz
  rw [hz.1.1] at hb
  exact absurd hb (by decide)

theorem clearFlags_inv {s : State} (side : Side) (h : s.Inv)
    (hb : bit (s.pia.section side).cr 2 = true) : (s.updSection side PiaSection.clearFlags).Inv :=
  updSection_inv side h (crConsistent_clear _ _ (section_consistent side h))
    fun hr => by rw [notReset_of_bit2 side h hb] at hr; cases hr

theorem portARead_same (s : State) : s.portARead.2.mem = s.mem ∧ s.portARead.2.pia = s.pia ∧
    s.portARead.2.platform = s.platform ∧ s.portARead.2.resLine = s.resLine := by
  unfold State.portARead
  dsimp only
  split <;> exact ⟨rfl, rfl, rfl, rfl⟩

theorem piaReadRaw_inv {s : State} (r : PiaReg) (h : s.Inv) : (s.piaReadRaw r).2.Inv := by
  unfold State.piaReadRaw
  cases r <;> dsimp only
  · split
    · rename_i hb
      obtain ⟨h1, h2, h3, h4⟩ := portARead_same s
      have hi : s.portARead.2.Inv := Inv_congr h1 h2 h3 h4 h
      refine strobeC2_inv .a (clearFlags_inv .a hi ?_)
      rw [h2]
      exact hb
    · exact h
  · exact h
  · split
    · rename_i hb
      exact clearFlags_inv (s := s) .b h hb
    · exact h
  · exact h

theorem latchNmi_inv {s : State} (o : State) (h : s.Inv) : (State.latchNmi o s).Inv := by
  unfold State.latchNmi
  split
  · exact Inv_congr (s := s) rfl rfl rfl rfl h
  · exact h

theorem noteLine_inv {s : State} (o : State) (h : s.Inv) : (State.noteLine o s).Inv := by
  unfold State.noteLine
  split
  · exact h
  · exact Inv_congr (s := s) rfl rfl rfl rfl h

theorem piaRead_inv {s : State} (r : PiaReg) (h : s.Inv) : (s.piaRead r).2.Inv :=
  noteLine_inv _ (latchNmi_inv _ (piaReadRaw_inv r h))

theorem writeControl_inv {s : State} (side : Side) (v : Byte) (h : s.Inv)
    (hr : s.piaInReset = false) : (s.writeControl side v).Inv := by
  have step : ∀ l : Level, crConsistent (crAfterWrite (s.pia.section side).cr v) l = true →
      ((s.updSection side fun q => { q with cr := crAfterWrite q.cr v }).driveC2 side l).Inv := by
    intro l hl
    have e : (s.updSection side fun q => { q with cr := crAfterWrite q.cr v }).driveC2 side l =
        { s.updSection side (fun q => { q with cr := crAfterWrite q.cr v, c2Out := l }) with
          pinEvents := s.pinEvents ++ [⟨side, l⟩] } := by cases side <;> rfl
    rw [e]
    refine Inv_congr (s := s.updSection side (fun q => { q with cr := crAfterWrite q.cr v, c2Out := l }))
      rfl rfl rfl rfl (updSection_inv side h hl fun k => ?_)
    rw [hr] at k
    cases k
  have still : ∀ l, l = (s.pia.section side).c2Out →
      crConsistent (crAfterWrite (s.pia.section side).cr v) l = true →
      (s.updSection side fun q => { q with cr := crAfterWrite q.cr v }).Inv := by
    intro l e hl
    subst e
    refine updSection_inv side h hl fun k => ?_
    rw [hr] at k
    cases k
  unfold State.writeControl
  dsimp only
  split
  · rename_i hm
    exact step _ (crConsistent_write _ _ _ (by simp [hm]) (by simp) (by simp [hm]))
  · rename_i hm
    exact step _ (crConsistent_write _ _ _ (by simp) (by simp [hm]) (by simp))
  · rename_i hm
    exact step _ (crConsistent_write _ _ _ (by simp) (by simp [hm]) (by simp))
  · rename_i hm
    have ok : ∀ l, crConsistent (crAfterWrite (s.pia.section side).cr v) l = true := fun l =>
      crConsistent_write _ _ _ (by simp [hm]) (by simp [hm]) (by simp [hm])
    split
    · exact still _ rfl (ok _)
    · refine driveC2_inv side _ ?_ ?_
      · exact Inv_congr (s := s.updSection side fun q => { q with cr := crAfterWrite q.cr v })
          rfl rfl rfl rfl (still _ rfl (ok _))
      · cases side <;> exact ok _
  · rename_i hm
    exact still _ rfl (crConsistent_write _ _ _ (by simp [hm]) (by simp [hm]) (by simp [hm]))

theorem writeData_inv {s : State} (side : Side) (v : Byte) (h : s.Inv) (hr : s.piaInReset = false) :
    (s.writeData side v).Inv := by
  have k : ∀ f : PiaSection → PiaSection, (f (s.pia.section side)).cr = (s.pia.section side).cr →
      (f (s.pia.section side)).c2Out = (s.pia.section side).c2Out → (s.updSection side f).Inv := by
    intro f h1 h2
    refine updSection_inv side h ?_ fun k => ?_
    · rw [consistent_eq, h1, h2]
      exact section_consistent side h
    · rw [hr] at k
      cases k
  unfold State.writeData
  split
  · exact k (fun q => { q with outReg := v }) rfl rfl
  · exact k (fun q => { q with ddr := v }) rfl rfl

theorem dir_inv {s : State} (v : Byte) (h : s.Inv) :
    State.Inv { s with pia := { s.pia with dir := v } } := h

theorem piaWriteRaw_inv {s : State} (r : PiaReg) (v : Byte) (h : s.Inv) (hr : s.piaInReset = false) :
    (s.piaWriteRaw r v).Inv := by
  have hd := dir_inv v h
  unfold State.piaWriteRaw
  cases r <;> dsimp only
  · exact writeData_inv .a v hd hr
  · exact writeControl_inv .a v hd hr
  · split
    · exact strobeC2_inv .b (writeData_inv .b v hd hr)
    · exact writeData_inv .b v hd hr
  · exact writeControl_inv .b v hd hr

theorem cleared_consistent (q : PiaSection) : q.cleared.consistent = true := by
  rw [consistent_eq]
  have k : ∀ l, crConsistent 0x00#8 l = true := fun l => by cases l <;> decide
  exact k _

theorem cleared_allZero (q : PiaSection) : q.cleared.allZero = true := by
  simp [PiaSection.allZero, PiaSection.cleared]

/-- Holding the PIA in reset gives the last part of the invariant. -/
theorem holdPia_inv {s : State} (hm : Memory.wf s.mem = true) (ha : s.pia.a.consistent = true)
    (hb : s.pia.b.consistent = true) : s.holdPia.Inv := by
  unfold State.holdPia
  split
  · exact ⟨hm, cleared_consistent _, cleared_consistent _,
      fun _ => ⟨cleared_allZero _, cleared_allZero _⟩⟩
  · rename_i hr
    exact ⟨hm, ha, hb, fun k => absurd k hr⟩

theorem piaWrite_inv {s : State} (r : PiaReg) (v : Byte) (h : s.Inv) : (s.piaWrite r v).Inv := by
  unfold State.piaWrite
  split
  · exact holdPia_inv h.1 h.2.1 h.2.2.1
  · rename_i hr
    exact noteLine_inv _ (latchNmi_inv _ (piaWriteRaw_inv r v h (by simpa using hr)))

/-! Bus accesses, the DMA agent, the environment. -/

theorem write_inv {s : State} (a : Word) (v : Byte) (h : s.Inv) :
    State.Inv { s with mem := Memory.write s.mem a.toNat v } :=
  ⟨Memory.write_word_wf s.mem a v h.1, h.2⟩

/-- The invariant does not speak of the trace. -/
theorem trace_inv {s : State} (tr : List BusEvent) (h : s.Inv) : State.Inv { s with trace := tr } :=
  Inv_congr (s := s) rfl rfl rfl rfl h

theorem draws_inv {s : State} (k : Nat) (h : s.Inv) : State.Inv { s with draws := k } :=
  Inv_congr (s := s) rfl rfl rfl rfl h

theorem applyDma_inv {s : State} (d : DmaAccess) (h : s.Inv) : (applyDma s d).Inv := by
  unfold applyDma
  split
  · exact h
  · split
    · exact trace_inv _ (write_inv _ _ h)
    all_goals exact h

theorem foldDma_inv (turn : List DmaAccess) {s : State} (h : s.Inv) : (turn.foldl applyDma s).Inv := by
  induction turn generalizing s with
  | nil => exact h
  | cons d turn ih => exact ih (applyDma_inv d h)

theorem dmaTurn_inv {s : State} (h : s.Inv) : s.dmaTurn.Inv := by
  unfold State.dmaTurn
  split
  · exact h
  · exact foldDma_inv _ (Inv_congr (s := s) rfl rfl rfl rfl h)

theorem busRead_inv (a : Word) (s : State) (h : s.Inv) : (busRead a s).2.Inv := by
  unfold busRead
  split
  · exact h
  · exact h
  · exact piaRead_inv _ (trace_inv _ h)
  · exact draws_inv _ h

theorem busWrite_inv (a : Word) (v : Byte) (s : State) (h : s.Inv) : (busWrite a v s).Inv := by
  have k := trace_inv (s.trace ++ [BusEvent.write a v]) h
  unfold busWrite
  dsimp only
  split
  · exact write_inv a v k
  · exact k
  · exact piaWrite_inv _ v k
  · exact k

theorem readAt_inv (a : Word) (s : State) (h : s.Inv) : (readAt a s).2.Inv :=
  busRead_inv a _ (dmaTurn_inv h)

theorem writeAt_inv (a : Word) (v : Byte) (s : State) (h : s.Inv) : (writeAt a v s).Inv :=
  busWrite_inv a v _ (dmaTurn_inv h)

theorem Accesses.inv {s t : State} {ops : List BusOp} (h : Accesses s ops t) (hs : s.Inv) : t.Inv :=
  h.keeps (P := State.Inv) (fun _ _ k => k.inv) readAt_inv writeAt_inv hs

theorem changeC1_inv {s : State} (side : Side) (l : Level) (h : s.Inv) :
    Memory.wf (s.changeC1 side l).mem = true ∧ (s.changeC1 side l).pia.a.consistent = true ∧
      (s.changeC1 side l).pia.b.consistent = true := by
  have hc := section_consistent side h
  rw [consistent_eq] at hc
  have h1 := crConsistent_flag1 _ _ hc
  unfold State.changeC1
  dsimp only
  split
  · split
    · rename_i hm
      have h2 := crConsistent_handshake _ _ .high h1 ((c2Mode_flag1 _).trans hm)
      cases side
      · exact ⟨h.1, h2, h.2.2.1⟩
      · exact ⟨h.1, h.2.1, h2⟩
    · cases side
      · exact ⟨h.1, h1, h.2.2.1⟩
      · exact ⟨h.1, h.2.1, h1⟩
  · cases side
    · exact ⟨h.1, h.2.1, h.2.2.1⟩
    · exact ⟨h.1, h.2.1, h.2.2.1⟩

theorem changeC2_inv {s : State} (side : Side) (l : Level) (h : s.Inv) :
    Memory.wf (s.changeC2 side l).mem = true ∧ (s.changeC2 side l).pia.a.consistent = true ∧
      (s.changeC2 side l).pia.b.consistent = true := by
  unfold State.changeC2
  dsimp only
  split
  · exact ⟨h.1, h.2.1, h.2.2.1⟩
  · rename_i h5
    have h2 := crConsistent_flag2 (s.pia.section side).cr (s.pia.section side).c2Out (by simpa using h5)
    split
    · cases side
      · exact ⟨h.1, h2, h.2.2.1⟩
      · exact ⟨h.1, h.2.1, h2⟩
    · cases side
      · exact ⟨h.1, h.2.1, h.2.2.1⟩
      · exact ⟨h.1, h.2.1, h.2.2.1⟩

theorem applyEnv_inv {s : State} (e : EnvEvent) (h : s.Inv) : (applyEnv e s).Inv := by
  have base : Memory.wf (applyEnvRaw e s).mem = true ∧ (applyEnvRaw e s).pia.a.consistent = true ∧
      (applyEnvRaw e s).pia.b.consistent = true := by
    have hs : Memory.wf s.mem = true ∧ s.pia.a.consistent = true ∧ s.pia.b.consistent = true :=
      ⟨h.1, h.2.1, h.2.2.1⟩
    cases e with
    | res l =>
      cases l
      · exact hs
      · simp only [applyEnvRaw, State.changeRes]
        split <;> exact hs
    | piaRes l => exact hs
    | extIrq b => exact hs
    | extNmi b => exact hs
    | port side v => cases side <;> exact hs
    | c1 side l => exact changeC1_inv side l h
    | c2 side l => exact changeC2_inv side l h
  exact latchNmi_inv _ (holdPia_inv base.1 base.2.1 base.2.2)

theorem freeFlags_consistent (f7 f6 : Bool) (q : PiaSection) (h : q.consistent = true) :
    (q.freeFlags f7 f6).consistent = true := by
  rw [consistent_eq] at h ⊢
  exact crConsistent_freeFlags q.cr q.c2Out f7 f6 h

theorem freeFlags_inv {s : State} (side : Side) (h : s.Inv) : (s.freeFlags side).Inv := by
  have k := freeFlags_consistent (Config.freeBit s.draws) (Config.freeBit (s.draws + 1))
  unfold State.freeFlags
  refine latchNmi_inv _ (holdPia_inv ?_ ?_ ?_)
  · cases side <;> exact h.1
  · cases side
    · exact k _ h.2.1
    · exact h.2.1
  · cases side
    · exact h.2.2.1
    · exact k _ h.2.2.1

theorem tornWrite_inv {s : State} (a : Word) (h : s.Inv) : (tornWrite a s).Inv := by
  have k := busWrite_inv a (Config.freeByte s.draws) _ (draws_inv (s.draws + 1) h)
  unfold tornWrite
  dsimp only
  split
  · exact freeFlags_inv .a k
  · exact freeFlags_inv .b k
  all_goals exact k

theorem replay_inv (events : List BusEvent) : ∀ (going : Bool) (s : State), s.Inv →
    (replay going events s).Inv := by
  induction events with
  | nil => exact fun _ _ h => h
  | cons e events ih =>
    intro going s h
    cases e with
    | dma a v => exact ih _ _ (applyDma_inv _ h)
    | piaRead a =>
      simp only [replay]
      split
      · exact ih _ _ (busRead_inv a _ (draws_inv _ h))
      · exact ih _ _ (draws_inv _ h)
    | write a v =>
      simp only [replay]
      split
      · exact ih _ _ (busWrite_inv a v _ (draws_inv _ h))
      · split
        · exact ih _ _ (tornWrite_inv a (draws_inv _ h))
        · exact ih _ _ (draws_inv _ h)

theorem tear_inv {s : State} (t : State) (h : s.Inv) : (tear s t).Inv := by
  unfold tear
  exact applyEnv_inv _ (replay_inv _ _ _ (Inv_congr (s := s) rfl rfl rfl rfl h))

end Sys2Proof.Machine
end

