-- ==== Sys2Proof/Laws/PerInstr.lean ====
section
/-! SUPPORT. For every instruction: its encoding has the length its format states, and the opcode alone tells that
length (30_encoding.md R70, R71). -/

namespace Sys2Proof.Laws

/-- The encoding of `i` is as long as its format states, and its first byte alone tells that length. -/
def EncodeLength.Statement (i : Instr) : Prop :=
  (encode i).length = i.length ∧ (encode i).head?.bind opcodeLength = some i.length

theorem EncodeLength.ldaImm (n : Byte) : EncodeLength.Statement (.ldaImm n) := ⟨rfl, rfl⟩
theorem EncodeLength.ldaZp (n : Byte) : EncodeLength.Statement (.ldaZp n) := ⟨rfl, rfl⟩
theorem EncodeLength.ldaZpx (n : Byte) : EncodeLength.Statement (.ldaZpx n) := ⟨rfl, rfl⟩
theorem EncodeLength.ldaAbs (nn : Word) : EncodeLength.Statement (.ldaAbs nn) := ⟨rfl, rfl⟩
theorem EncodeLength.ldaAbx (nn : Word) : EncodeLength.Statement (.ldaAbx nn) := ⟨rfl, rfl⟩
theorem EncodeLength.ldaAby (nn : Word) : EncodeLength.Statement (.ldaAby nn) := ⟨rfl, rfl⟩
theorem EncodeLength.ldaIzx (n : Byte) : EncodeLength.Statement (.ldaIzx n) := ⟨rfl, rfl⟩
theorem EncodeLength.ldaIzy (n : Byte) : EncodeLength.Statement (.ldaIzy n) := ⟨rfl, rfl⟩
theorem EncodeLength.ldaIzp (n : Byte) : EncodeLength.Statement (.ldaIzp n) := ⟨rfl, rfl⟩
theorem EncodeLength.ldxImm (n : Byte) : EncodeLength.Statement (.ldxImm n) := ⟨rfl, rfl⟩
theorem EncodeLength.ldxZp (n : Byte) : EncodeLength.Statement (.ldxZp n) := ⟨rfl, rfl⟩
theorem EncodeLength.ldxZpy (n : Byte) : EncodeLength.Statement (.ldxZpy n) := ⟨rfl, rfl⟩
theorem EncodeLength.ldxAbs (nn : Word) : EncodeLength.Statement (.ldxAbs nn) := ⟨rfl, rfl⟩
theorem EncodeLength.ldxAby (nn : Word) : EncodeLength.Statement (.ldxAby nn) := ⟨rfl, rfl⟩
theorem EncodeLength.ldyImm (n : Byte) : EncodeLength.Statement (.ldyImm n) := ⟨rfl, rfl⟩
theorem EncodeLength.ldyZp (n : Byte) : EncodeLength.Statement (.ldyZp n) := ⟨rfl, rfl⟩
theorem EncodeLength.ldyZpx (n : Byte) : EncodeLength.Statement (.ldyZpx n) := ⟨rfl, rfl⟩
theorem EncodeLength.ldyAbs (nn : Word) : EncodeLength.Statement (.ldyAbs nn) := ⟨rfl, rfl⟩
theorem EncodeLength.ldyAbx (nn : Word) : EncodeLength.Statement (.ldyAbx nn) := ⟨rfl, rfl⟩
theorem EncodeLength.staZp (n : Byte) : EncodeLength.Statement (.staZp n) := ⟨rfl, rfl⟩
theorem EncodeLength.staZpx (n : Byte) : EncodeLength.Statement (.staZpx n) := ⟨rfl, rfl⟩
theorem EncodeLength.staAbs (nn : Word) : EncodeLength.Statement (.staAbs nn) := ⟨rfl, rfl⟩
theorem EncodeLength.staAbx (nn : Word) : EncodeLength.Statement (.staAbx nn) := ⟨rfl, rfl⟩
theorem EncodeLength.staAby (nn : Word) : EncodeLength.Statement (.staAby nn) := ⟨rfl, rfl⟩
theorem EncodeLength.staIzx (n : Byte) : EncodeLength.Statement (.staIzx n) := ⟨rfl, rfl⟩
theorem EncodeLength.staIzy (n : Byte) : EncodeLength.Statement (.staIzy n) := ⟨rfl, rfl⟩
theorem EncodeLength.staIzp (n : Byte) : EncodeLength.Statement (.staIzp n) := ⟨rfl, rfl⟩
theorem EncodeLength.stxZp (n : Byte) : EncodeLength.Statement (.stxZp n) := ⟨rfl, rfl⟩
theorem EncodeLength.stxZpy (n : Byte) : EncodeLength.Statement (.stxZpy n) := ⟨rfl, rfl⟩
theorem EncodeLength.stxAbs (nn : Word) : EncodeLength.Statement (.stxAbs nn) := ⟨rfl, rfl⟩
theorem EncodeLength.styZp (n : Byte) : EncodeLength.Statement (.styZp n) := ⟨rfl, rfl⟩
theorem EncodeLength.styZpx (n : Byte) : EncodeLength.Statement (.styZpx n) := ⟨rfl, rfl⟩
theorem EncodeLength.styAbs (nn : Word) : EncodeLength.Statement (.styAbs nn) := ⟨rfl, rfl⟩
theorem EncodeLength.stzZp (n : Byte) : EncodeLength.Statement (.stzZp n) := ⟨rfl, rfl⟩
theorem EncodeLength.stzZpx (n : Byte) : EncodeLength.Statement (.stzZpx n) := ⟨rfl, rfl⟩
theorem EncodeLength.stzAbs (nn : Word) : EncodeLength.Statement (.stzAbs nn) := ⟨rfl, rfl⟩
theorem EncodeLength.stzAbx (nn : Word) : EncodeLength.Statement (.stzAbx nn) := ⟨rfl, rfl⟩
theorem EncodeLength.tax : EncodeLength.Statement .tax := ⟨rfl, rfl⟩
theorem EncodeLength.tay : EncodeLength.Statement .tay := ⟨rfl, rfl⟩
theorem EncodeLength.tsx : EncodeLength.Statement .tsx := ⟨rfl, rfl⟩
theorem EncodeLength.txa : EncodeLength.Statement .txa := ⟨rfl, rfl⟩
theorem EncodeLength.txs : EncodeLength.Statement .txs := ⟨rfl, rfl⟩
theorem EncodeLength.tya : EncodeLength.Statement .tya := ⟨rfl, rfl⟩
theorem EncodeLength.adcImm (n : Byte) : EncodeLength.Statement (.adcImm n) := ⟨rfl, rfl⟩
theorem EncodeLength.adcZp (n : Byte) : EncodeLength.Statement (.adcZp n) := ⟨rfl, rfl⟩
theorem EncodeLength.adcZpx (n : Byte) : EncodeLength.Statement (.adcZpx n) := ⟨rfl, rfl⟩
theorem EncodeLength.adcAbs (nn : Word) : EncodeLength.Statement (.adcAbs nn) := ⟨rfl, rfl⟩
theorem EncodeLength.adcAbx (nn : Word) : EncodeLength.Statement (.adcAbx nn) := ⟨rfl, rfl⟩
theorem EncodeLength.adcAby (nn : Word) : EncodeLength.Statement (.adcAby nn) := ⟨rfl, rfl⟩
theorem EncodeLength.adcIzx (n : Byte) : EncodeLength.Statement (.adcIzx n) := ⟨rfl, rfl⟩
theorem EncodeLength.adcIzy (n : Byte) : EncodeLength.Statement (.adcIzy n) := ⟨rfl, rfl⟩
theorem EncodeLength.adcIzp (n : Byte) : EncodeLength.Statement (.adcIzp n) := ⟨rfl, rfl⟩
theorem EncodeLength.sbcImm (n : Byte) : EncodeLength.Statement (.sbcImm n) := ⟨rfl, rfl⟩
theorem EncodeLength.sbcZp (n : Byte) : EncodeLength.Statement (.sbcZp n) := ⟨rfl, rfl⟩
theorem EncodeLength.sbcZpx (n : Byte) : EncodeLength.Statement (.sbcZpx n) := ⟨rfl, rfl⟩
theorem EncodeLength.sbcAbs (nn : Word) : EncodeLength.Statement (.sbcAbs nn) := ⟨rfl, rfl⟩
theorem EncodeLength.sbcAbx (nn : Word) : EncodeLength.Statement (.sbcAbx nn) := ⟨rfl, rfl⟩
theorem EncodeLength.sbcAby (nn : Word) : EncodeLength.Statement (.sbcAby nn) := ⟨rfl, rfl⟩
theorem EncodeLength.sbcIzx (n : Byte) : EncodeLength.Statement (.sbcIzx n) := ⟨rfl, rfl⟩
theorem EncodeLength.sbcIzy (n : Byte) : EncodeLength.Statement (.sbcIzy n) := ⟨rfl, rfl⟩
theorem EncodeLength.sbcIzp (n : Byte) : EncodeLength.Statement (.sbcIzp n) := ⟨rfl, rfl⟩
theorem EncodeLength.andImm (n : Byte) : EncodeLength.Statement (.andImm n) := ⟨rfl, rfl⟩
theorem EncodeLength.andZp (n : Byte) : EncodeLength.Statement (.andZp n) := ⟨rfl, rfl⟩
theorem EncodeLength.andZpx (n : Byte) : EncodeLength.Statement (.andZpx n) := ⟨rfl, rfl⟩
theorem EncodeLength.andAbs (nn : Word) : EncodeLength.Statement (.andAbs nn) := ⟨rfl, rfl⟩
theorem EncodeLength.andAbx (nn : Word) : EncodeLength.Statement (.andAbx nn) := ⟨rfl, rfl⟩
theorem EncodeLength.andAby (nn : Word) : EncodeLength.Statement (.andAby nn) := ⟨rfl, rfl⟩
theorem EncodeLength.andIzx (n : Byte) : EncodeLength.Statement (.andIzx n) := ⟨rfl, rfl⟩
theorem EncodeLength.andIzy (n : Byte) : EncodeLength.Statement (.andIzy n) := ⟨rfl, rfl⟩
theorem EncodeLength.andIzp (n : Byte) : EncodeLength.Statement (.andIzp n) := ⟨rfl, rfl⟩
theorem EncodeLength.oraImm (n : Byte) : EncodeLength.Statement (.oraImm n) := ⟨rfl, rfl⟩
theorem EncodeLength.oraZp (n : Byte) : EncodeLength.Statement (.oraZp n) := ⟨rfl, rfl⟩
theorem EncodeLength.oraZpx (n : Byte) : EncodeLength.Statement (.oraZpx n) := ⟨rfl, rfl⟩
theorem EncodeLength.oraAbs (nn : Word) : EncodeLength.Statement (.oraAbs nn) := ⟨rfl, rfl⟩
theorem EncodeLength.oraAbx (nn : Word) : EncodeLength.Statement (.oraAbx nn) := ⟨rfl, rfl⟩
theorem EncodeLength.oraAby (nn : Word) : EncodeLength.Statement (.oraAby nn) := ⟨rfl, rfl⟩
theorem EncodeLength.oraIzx (n : Byte) : EncodeLength.Statement (.oraIzx n) := ⟨rfl, rfl⟩
theorem EncodeLength.oraIzy (n : Byte) : EncodeLength.Statement (.oraIzy n) := ⟨rfl, rfl⟩
theorem EncodeLength.oraIzp (n : Byte) : EncodeLength.Statement (.oraIzp n) := ⟨rfl, rfl⟩
theorem EncodeLength.eorImm (n : Byte) : EncodeLength.Statement (.eorImm n) := ⟨rfl, rfl⟩
theorem EncodeLength.eorZp (n : Byte) : EncodeLength.Statement (.eorZp n) := ⟨rfl, rfl⟩
theorem EncodeLength.eorZpx (n : Byte) : EncodeLength.Statement (.eorZpx n) := ⟨rfl, rfl⟩
theorem EncodeLength.eorAbs (nn : Word) : EncodeLength.Statement (.eorAbs nn) := ⟨rfl, rfl⟩
theorem EncodeLength.eorAbx (nn : Word) : EncodeLength.Statement (.eorAbx nn) := ⟨rfl, rfl⟩
theorem EncodeLength.eorAby (nn : Word) : EncodeLength.Statement (.eorAby nn) := ⟨rfl, rfl⟩
theorem EncodeLength.eorIzx (n : Byte) : EncodeLength.Statement (.eorIzx n) := ⟨rfl, rfl⟩
theorem EncodeLength.eorIzy (n : Byte) : EncodeLength.Statement (.eorIzy n) := ⟨rfl, rfl⟩
theorem EncodeLength.eorIzp (n : Byte) : EncodeLength.Statement (.eorIzp n) := ⟨rfl, rfl⟩
theorem EncodeLength.cmpImm (n : Byte) : EncodeLength.Statement (.cmpImm n) := ⟨rfl, rfl⟩
theorem EncodeLength.cmpZp (n : Byte) : EncodeLength.Statement (.cmpZp n) := ⟨rfl, rfl⟩
theorem EncodeLength.cmpZpx (n : Byte) : EncodeLength.Statement (.cmpZpx n) := ⟨rfl, rfl⟩
theorem EncodeLength.cmpAbs (nn : Word) : EncodeLength.Statement (.cmpAbs nn) := ⟨rfl, rfl⟩
theorem EncodeLength.cmpAbx (nn : Word) : EncodeLength.Statement (.cmpAbx nn) := ⟨rfl, rfl⟩
theorem EncodeLength.cmpAby (nn : Word) : EncodeLength.Statement (.cmpAby nn) := ⟨rfl, rfl⟩
theorem EncodeLength.cmpIzx (n : Byte) : EncodeLength.Statement (.cmpIzx n) := ⟨rfl, rfl⟩
theorem EncodeLength.cmpIzy (n : Byte) : EncodeLength.Statement (.cmpIzy n) := ⟨rfl, rfl⟩
theorem EncodeLength.cmpIzp (n : Byte) : EncodeLength.Statement (.cmpIzp n) := ⟨rfl, rfl⟩
theorem EncodeLength.cpxImm (n : Byte) : EncodeLength.Statement (.cpxImm n) := ⟨rfl, rfl⟩
theorem EncodeLength.cpxZp (n : Byte) : EncodeLength.Statement (.cpxZp n) := ⟨rfl, rfl⟩
theorem EncodeLength.cpxAbs (nn : Word) : EncodeLength.Statement (.cpxAbs nn) := ⟨rfl, rfl⟩
theorem EncodeLength.cpyImm (n : Byte) : EncodeLength.Statement (.cpyImm n) := ⟨rfl, rfl⟩
theorem EncodeLength.cpyZp (n : Byte) : EncodeLength.Statement (.cpyZp n) := ⟨rfl, rfl⟩
theorem EncodeLength.cpyAbs (nn : Word) : EncodeLength.Statement (.cpyAbs nn) := ⟨rfl, rfl⟩
theorem EncodeLength.bitZp (n : Byte) : EncodeLength.Statement (.bitZp n) := ⟨rfl, rfl⟩
theorem EncodeLength.bitAbs (nn : Word) : EncodeLength.Statement (.bitAbs nn) := ⟨rfl, rfl⟩
theorem EncodeLength.tsbZp (n : Byte) : EncodeLength.Statement (.tsbZp n) := ⟨rfl, rfl⟩
theorem EncodeLength.tsbAbs (nn : Word) : EncodeLength.Statement (.tsbAbs nn) := ⟨rfl, rfl⟩
theorem EncodeLength.trbZp (n : Byte) : EncodeLength.Statement (.trbZp n) := ⟨rfl, rfl⟩
theorem EncodeLength.trbAbs (nn : Word) : EncodeLength.Statement (.trbAbs nn) := ⟨rfl, rfl⟩
theorem EncodeLength.aslZp (n : Byte) : EncodeLength.Statement (.aslZp n) := ⟨rfl, rfl⟩
theorem EncodeLength.aslZpx (n : Byte) : EncodeLength.Statement (.aslZpx n) := ⟨rfl, rfl⟩
theorem EncodeLength.aslAbs (nn : Word) : EncodeLength.Statement (.aslAbs nn) := ⟨rfl, rfl⟩
theorem EncodeLength.aslAbx (nn : Word) : EncodeLength.Statement (.aslAbx nn) := ⟨rfl, rfl⟩
theorem EncodeLength.asla : EncodeLength.Statement .asla := ⟨rfl, rfl⟩
theorem EncodeLength.lsrZp (n : Byte) : EncodeLength.Statement (.lsrZp n) := ⟨rfl, rfl⟩
theorem EncodeLength.lsrZpx (n : Byte) : EncodeLength.Statement (.lsrZpx n) := ⟨rfl, rfl⟩
theorem EncodeLength.lsrAbs (nn : Word) : EncodeLength.Statement (.lsrAbs nn) := ⟨rfl, rfl⟩
theorem EncodeLength.lsrAbx (nn : Word) : EncodeLength.Statement (.lsrAbx nn) := ⟨rfl, rfl⟩
theorem EncodeLength.lsra : EncodeLength.Statement .lsra := ⟨rfl, rfl⟩
theorem EncodeLength.rolZp (n : Byte) : EncodeLength.Statement (.rolZp n) := ⟨rfl, rfl⟩
theorem EncodeLength.rolZpx (n : Byte) : EncodeLength.Statement (.rolZpx n) := ⟨rfl, rfl⟩
theorem EncodeLength.rolAbs (nn : Word) : EncodeLength.Statement (.rolAbs nn) := ⟨rfl, rfl⟩
theorem EncodeLength.rolAbx (nn : Word) : EncodeLength.Statement (.rolAbx nn) := ⟨rfl, rfl⟩
theorem EncodeLength.rola : EncodeLength.Statement .rola := ⟨rfl, rfl⟩
theorem EncodeLength.rorZp (n : Byte) : EncodeLength.Statement (.rorZp n) := ⟨rfl, rfl⟩
theorem EncodeLength.rorZpx (n : Byte) : EncodeLength.Statement (.rorZpx n) := ⟨rfl, rfl⟩
theorem EncodeLength.rorAbs (nn : Word) : EncodeLength.Statement (.rorAbs nn) := ⟨rfl, rfl⟩
theorem EncodeLength.rorAbx (nn : Word) : EncodeLength.Statement (.rorAbx nn) := ⟨rfl, rfl⟩
theorem EncodeLength.rora : EncodeLength.Statement .rora := ⟨rfl, rfl⟩
theorem EncodeLength.incZp (n : Byte) : EncodeLength.Statement (.incZp n) := ⟨rfl, rfl⟩
theorem EncodeLength.incZpx (n : Byte) : EncodeLength.Statement (.incZpx n) := ⟨rfl, rfl⟩
theorem EncodeLength.incAbs (nn : Word) : EncodeLength.Statement (.incAbs nn) := ⟨rfl, rfl⟩
theorem EncodeLength.incAbx (nn : Word) : EncodeLength.Statement (.incAbx nn) := ⟨rfl, rfl⟩
theorem EncodeLength.decZp (n : Byte) : EncodeLength.Statement (.decZp n) := ⟨rfl, rfl⟩
theorem EncodeLength.decZpx (n : Byte) : EncodeLength.Statement (.decZpx n) := ⟨rfl, rfl⟩
theorem EncodeLength.decAbs (nn : Word) : EncodeLength.Statement (.decAbs nn) := ⟨rfl, rfl⟩
theorem EncodeLength.decAbx (nn : Word) : EncodeLength.Statement (.decAbx nn) := ⟨rfl, rfl⟩
theorem EncodeLength.ina : EncodeLength.Statement .ina := ⟨rfl, rfl⟩
theorem EncodeLength.dea : EncodeLength.Statement .dea := ⟨rfl, rfl⟩
theorem EncodeLength.inx : EncodeLength.Statement .inx := ⟨rfl, rfl⟩
theorem EncodeLength.iny : EncodeLength.Statement .iny := ⟨rfl, rfl⟩
theorem EncodeLength.dex : EncodeLength.Statement .dex := ⟨rfl, rfl⟩
theorem EncodeLength.dey : EncodeLength.Statement .dey := ⟨rfl, rfl⟩
theorem EncodeLength.bcc (a : Byte) : EncodeLength.Statement (.bcc a) := ⟨rfl, rfl⟩
theorem EncodeLength.bcs (a : Byte) : EncodeLength.Statement (.bcs a) := ⟨rfl, rfl⟩
theorem EncodeLength.beq (a : Byte) : EncodeLength.Statement (.beq a) := ⟨rfl, rfl⟩
theorem EncodeLength.bmi (a : Byte) : EncodeLength.Statement (.bmi a) := ⟨rfl, rfl⟩
theorem EncodeLength.bne (a : Byte) : EncodeLength.Statement (.bne a) := ⟨rfl, rfl⟩
theorem EncodeLength.bpl (a : Byte) : EncodeLength.Statement (.bpl a) := ⟨rfl, rfl⟩
theorem EncodeLength.bvc (a : Byte) : EncodeLength.Statement (.bvc a) := ⟨rfl, rfl⟩
theorem EncodeLength.bvs (a : Byte) : EncodeLength.Statement (.bvs a) := ⟨rfl, rfl⟩
theorem EncodeLength.bra (a : Byte) : EncodeLength.Statement (.bra a) := ⟨rfl, rfl⟩
theorem EncodeLength.jmpAbs (nn : Word) : EncodeLength.Statement (.jmpAbs nn) := ⟨rfl, rfl⟩
theorem EncodeLength.jmpInd (nn : Word) : EncodeLength.Statement (.jmpInd nn) := ⟨rfl, rfl⟩
theorem EncodeLength.jmpIax (nn : Word) : EncodeLength.Statement (.jmpIax nn) := ⟨rfl, rfl⟩
theorem EncodeLength.jsr (nn : Word) : EncodeLength.Statement (.jsr nn) := ⟨rfl, rfl⟩
theorem EncodeLength.rts : EncodeLength.Statement .rts := ⟨rfl, rfl⟩
theorem EncodeLength.pha : EncodeLength.Statement .pha := ⟨rfl, rfl⟩
theorem EncodeLength.php : EncodeLength.Statement .php := ⟨rfl, rfl⟩
theorem EncodeLength.phx : EncodeLength.Statement .phx := ⟨rfl, rfl⟩
theorem EncodeLength.phy : EncodeLength.Statement .phy := ⟨rfl, rfl⟩
theorem EncodeLength.pla : EncodeLength.Statement .pla := ⟨rfl, rfl⟩
theorem EncodeLength.plp : EncodeLength.Statement .plp := ⟨rfl, rfl⟩
theorem EncodeLength.plx : EncodeLength.Statement .plx := ⟨rfl, rfl⟩
theorem EncodeLength.ply : EncodeLength.Statement .ply := ⟨rfl, rfl⟩
theorem EncodeLength.clc : EncodeLength.Statement .clc := ⟨rfl, rfl⟩
theorem EncodeLength.cld : EncodeLength.Statement .cld := ⟨rfl, rfl⟩
theorem EncodeLength.cli : EncodeLength.Statement .cli := ⟨rfl, rfl⟩
theorem EncodeLength.clv : EncodeLength.Statement .clv := ⟨rfl, rfl⟩
theorem EncodeLength.sec : EncodeLength.Statement .sec := ⟨rfl, rfl⟩
theorem EncodeLength.sed : EncodeLength.Statement .sed := ⟨rfl, rfl⟩
theorem EncodeLength.sei : EncodeLength.Statement .sei := ⟨rfl, rfl⟩
theorem EncodeLength.nop : EncodeLength.Statement .nop := ⟨rfl, rfl⟩
theorem EncodeLength.brk : EncodeLength.Statement .brk := ⟨rfl, rfl⟩
theorem EncodeLength.rti : EncodeLength.Statement .rti := ⟨rfl, rfl⟩

end Sys2Proof.Laws
end

