-- ==== Sys2Proof/Laws/Run.lean ====
section
/-! SUPPORT. What a fall of RES during a step leaves of memory, and what the end state of a run is. -/

namespace Sys2Proof.Machine

/-- An event that stores the byte `v` at `a`. -/
def BusEvent.stores (e : BusEvent) (a : Word) (v : Byte) : Prop := e = .write a v ∨ e = .dma a v

theorem peek_congr {s t : State} (h : t.mem = s.mem) (a : Word) : t.peek a = s.peek a := by
  simp only [State.peek, h]

theorem updSection_mem (side : Side) (f : PiaSection → PiaSection) (s : State) :
    (s.updSection side f).mem = s.mem := (updSection_piaOnly side f s).mem

theorem freeFlags_mem (side : Side) (s : State) : (s.freeFlags side).mem = s.mem := by
  unfold State.freeFlags
  dsimp only
  rw [(latchNmi_piaOnly _ _).mem, (holdPia_piaOnly _).mem]
  exact updSection_mem _ _ _

theorem applyEnv_mem (e : EnvEvent) (s : State) : (applyEnv e s).mem = s.mem := by
  unfold applyEnv
  rw [(latchNmi_piaOnly _ _).mem, (holdPia_piaOnly _).mem]
  cases e with
  | res l =>
    cases l
    · rfl
    · simp only [applyEnvRaw, State.changeRes]
      split <;> rfl
  | piaRes l => rfl
  | extIrq b => rfl
  | extNmi b => rfl
  | port side v => exact updSection_mem _ _ _
  | c1 side l => exact (changeC1_piaOnly side l s).mem
  | c2 side l => exact (changeC2_piaOnly side l s).mem

/-- An interrupted write leaves every byte of memory but the one addressed. -/
theorem tornWrite_peek (a b : Word) (s : State) (h : b ≠ a) : (tornWrite a s).peek b = s.peek b := by
  have k : (busWrite a (Config.freeByte s.draws) { s with draws := s.draws + 1 }).peek b = s.peek b :=
    (busWrite_mem a _ { s with draws := s.draws + 1 }).1 b h
  unfold tornWrite
  dsimp only
  split
  · rw [peek_congr (freeFlags_mem _ _), k]
  · rw [peek_congr (freeFlags_mem _ _), k]
  all_goals exact k

theorem applyDma_peek (s : State) (a b : Word) (v : Byte) :
    (b ≠ a → (applyDma s (.write a v)).peek b = s.peek b) ∧
      ((applyDma s (.write a v)).peek a = s.peek a ∨ (applyDma s (.write a v)).peek a = v) := by
  simp only [applyDma]
  split
  · refine ⟨fun h => ?_, .inr ?_⟩
    · simp only [State.peek]
      exact Memory.read_write_ne _ _ fun e => h (BitVec.eq_of_toNat_eq e)
    · simp only [State.peek]
      exact Memory.read_write_self _ _ _
  all_goals exact ⟨fun _ => rfl, .inl rfl⟩

/-- A byte of memory after `events` have been done again: as before, or a byte one of them stores there, or
at the one address `torn`. -/
def Kept (events : List BusEvent) (torn : Option Word) (s t : State) : Prop :=
  ∀ b, torn ≠ some b →
    t.peek b = s.peek b ∨ ∃ e ∈ events, ∃ v, e.stores b v ∧ t.peek b = v

/-- One more event before `events`. -/
theorem Kept.cons {e : BusEvent} {events : List BusEvent} {torn : Option Word} {s u t : State}
    (h : Kept events torn u t)
    (k : ∀ b, torn ≠ some b → u.peek b = s.peek b ∨ ∃ v, e.stores b v ∧ u.peek b = v) :
    Kept (e :: events) torn s t := by
  intro b hb
  rcases h b hb with h | ⟨e', he, v, hv, h⟩
  · rcases k b hb with k | ⟨v, hv, k⟩
    · exact .inl (h.trans k)
    · exact .inr ⟨e, by simp, v, hv, h.trans k⟩
  · exact .inr ⟨e', by simp [he], v, hv, h⟩

/-- A torn byte is one the step was writing: some event of it stores there. -/
def TornBy (events : List BusEvent) (torn : Option Word) : Prop :=
  ∀ a, torn = some a → ∃ v, BusEvent.write a v ∈ events

theorem TornBy.cons {e : BusEvent} {events : List BusEvent} {torn : Option Word}
    (h : TornBy events torn) : TornBy (e :: events) torn :=
  fun a ha => (h a ha).imp fun _ k => List.mem_cons_of_mem _ k

/-- An event of a CPU write, done again as it was, stores its byte or nothing. -/
theorem write_kept {a b : Word} {v : Byte} {s u : State} (hne : b ≠ a → u.peek b = s.peek b)
    (heq : u.peek a = s.peek a ∨ u.peek a = v) :
    u.peek b = s.peek b ∨ b = a ∧ u.peek b = v := by
  by_cases h : b = a
  · subst h
    exact heq.imp id fun k => ⟨rfl, k⟩
  · exact .inl (hne h)

/-- What `replay` leaves of memory: a cut leaves every byte as it was or as some event stored it, but for at
most one byte, which a CPU write of the step was storing. A CPU that has stopped tears nothing. -/
theorem replay_kept (events : List BusEvent) : ∀ (going : Bool) (s : State),
    ∃ torn, TornBy events torn ∧ (going = false → torn = none) ∧
      Kept events torn s (replay going events s) := by
  induction events with
  | nil => exact fun _ _ => ⟨none, nofun, fun _ => rfl, fun _ _ => .inl rfl⟩
  | cons e events ih =>
    intro going s
    cases e with
    | dma a v =>
      obtain ⟨torn, h1, h2, h3⟩ := ih going (applyDma s (.write a v))
      refine ⟨torn, h1.cons, h2, h3.cons fun b _ => ?_⟩
      have k := applyDma_peek s a b v
      rcases write_kept k.1 k.2 with h | ⟨rfl, h⟩
      · exact .inl h
      · exact .inr ⟨v, .inr rfl, h⟩
    | piaRead a =>
      simp only [replay]
      split
      · obtain ⟨torn, h1, h2, h3⟩ := ih true (busRead a { s with draws := s.draws + 1 }).2
        refine ⟨torn, h1.cons, fun k => ?_, h3.cons fun b _ => .inl (peek_congr (busRead_mem a _).1 b)⟩
        simp_all
      · obtain ⟨torn, h1, h2, h3⟩ := ih false { s with draws := s.draws + 1 }
        exact ⟨torn, h1.cons, fun _ => h2 rfl, h3.cons fun _ _ => .inl rfl⟩
    | write a v =>
      simp only [replay]
      split
      · obtain ⟨torn, h1, h2, h3⟩ := ih true (busWrite a v { s with draws := s.draws + 2 })
        refine ⟨torn, h1.cons, fun k => ?_, h3.cons fun b _ => ?_⟩
        · simp_all
        have k := busWrite_mem a v { s with draws := s.draws + 2 }
        rcases write_kept (k.1 b) k.2.1 with h | ⟨rfl, h⟩
        · exact .inl h
        · exact .inr ⟨v, .inl rfl, h⟩
      · split
        · obtain ⟨torn, h1, h2, h3⟩ := ih false (tornWrite a { s with draws := s.draws + 2 })
          cases h2 rfl
          refine ⟨some a, fun b hb => ?_, fun k => ?_, fun b hb => ?_⟩
          · cases hb
            exact ⟨v, by simp⟩
          · simp_all
          · have hn : b ≠ a := fun e => hb (by rw [e])
            have k : (tornWrite a { s with draws := s.draws + 2 }).peek b = s.peek b :=
              tornWrite_peek a b _ hn
            rcases h3 b nofun with h | ⟨e, he, w, hw, h⟩
            · exact .inl (h.trans k)
            · exact .inr ⟨e, by simp [he], w, hw, h⟩
        · obtain ⟨torn, h1, h2, h3⟩ := ih false { s with draws := s.draws + 2 }
          exact ⟨torn, h1.cons, fun _ => h2 rfl, h3.cons fun _ _ => .inl rfl⟩

/-! A whole step. -/

/-- Every byte of memory is in `t` as it was in `s`, or as an event of the trace of `t` stores it. -/
def Recorded (s t : State) : Prop := Kept t.trace none s t

theorem Recorded.refl (s : State) : Recorded s s := fun _ _ => .inl rfl

/-- A move that keeps the trace and memory keeps the record. -/
theorem Recorded.same {s t u : State} (h : Recorded s t) (hm : u.mem = t.mem) (ht : u.trace = t.trace) :
    Recorded s u := by
  intro b hb
  rw [peek_congr hm, ht]
  exact h b hb

/-- One more event, which is recorded. -/
theorem Recorded.snoc {s t u : State} (h : Recorded s t) (e : BusEvent) (ht : u.trace = t.trace ++ [e])
    (k : ∀ b, u.peek b = t.peek b ∨ ∃ v, e.stores b v ∧ u.peek b = v) : Recorded s u := by
  intro b hb
  rw [ht]
  rcases k b with k | ⟨v, hv, k⟩
  · rcases h b hb with h | ⟨e', he, v, hv, h⟩
    · exact .inl (k.trans h)
    · exact .inr ⟨e', by simp [he], v, hv, k.trans h⟩
  · exact .inr ⟨e, by simp, v, hv, k⟩

theorem applyDma_recorded {s t : State} (d : DmaAccess) (h : Recorded s t) :
    Recorded s (applyDma t d) := by
  cases d with
  | read a => exact h
  | write a v =>
    have k := applyDma_peek t a
    by_cases hr : t.platform.target a = .ram
    · refine h.snoc (.dma a v) (by simp [applyDma, hr]) fun b => ?_
      rcases write_kept (k b v).1 (k b v).2 with h | ⟨rfl, h⟩
      · exact .inl h
      · exact .inr ⟨v, .inr rfl, h⟩
    · have e : applyDma t (.write a v) = t := by
        simp only [applyDma]
        split <;> simp_all
      rwa [e]

theorem foldDma_recorded (turn : List DmaAccess) {s t : State} (h : Recorded s t) :
    Recorded s (turn.foldl applyDma t) := by
  induction turn generalizing t with
  | nil => exact h
  | cons d turn ih => exact ih (applyDma_recorded d h)

theorem dmaTurn_recorded {s t : State} (h : Recorded s t) : Recorded s t.dmaTurn := by
  unfold State.dmaTurn
  split
  · exact h
  · exact foldDma_recorded _ (h.same rfl rfl)

theorem readAt_recorded {s : State} (a : Word) (t : State) (h : Recorded s t) :
    Recorded s (readAt a t).2 := by
  have k := dmaTurn_recorded h
  unfold readAt busRead
  split
  · exact k
  · exact k
  · rename_i r _
    have p := piaRead_piaOnly r { t.dmaTurn with trace := t.dmaTurn.trace ++ [BusEvent.piaRead a] }
    exact k.snoc (.piaRead a) p.trace fun b => .inl (peek_congr p.mem b)
  · exact k.same rfl rfl

theorem writeAt_recorded {s : State} (a : Word) (v : Byte) (t : State) (h : Recorded s t) :
    Recorded s (writeAt a v t) := by
  have k := busWrite_mem a v t.dmaTurn
  refine (dmaTurn_recorded h).snoc (.write a v) k.2.2.2 fun b => ?_
  rcases write_kept (k.1 b) k.2.1 with h | ⟨rfl, h⟩
  · exact .inl h
  · exact .inr ⟨v, .inl rfl, h⟩

theorem Accesses.recorded {s t u : State} {ops : List BusOp} (h : Accesses t ops u)
    (k : Recorded s t) : Recorded s u :=
  h.keeps (P := Recorded s) (fun _ _ b k => k.same b.mem b.trace) readAt_recorded writeAt_recorded k

theorem readBytes_recorded {s : State} : ∀ (n : Nat) (a : Word) (t : State), Recorded s t →
    Recorded s (readBytes n a t).2
  | 0, _, _, h => h
  | n + 1, _, t, h => readBytes_recorded n _ _ (readAt_recorded _ t h)

/-- A fetch that answers an instruction records what its accesses change. -/
theorem fetch_recorded {s t u : State} {i : Instr} (h : fetch t = .instr i u) (k : Recorded s t) :
    Recorded s u := by
  revert h
  unfold fetch
  split
  · simp
  · dsimp only
    split
    · simp
    · split
      · simp
      · split
        · simp only [Fetched.instr.injEq, and_imp]
          rintro - rfl
          exact readBytes_recorded _ _ _ (readAt_recorded _ t k)
        · simp

/-- Every byte a CPU step changes is one that its trace names, with the value stored there. -/
theorem cpuStep_recorded {s t : State} (h : cpuStep s = .next t) : Recorded s t := by
  have hb : Recorded s s.boundary := by
    unfold State.boundary
    split
    · exact (Recorded.refl s).same rfl rfl
    · exact Recorded.refl s
  unfold cpuStep at h
  split at h
  · cases h
    exact Recorded.refl s
  · split at h
    · cases guarded_next h
      simp only [resetSequence]
      refine Recorded.same (t := (readWord resetVector _).2) ?_ rfl rfl
      exact (readWord_accesses resetVector _).recorded ((Recorded.refl s).same rfl rfl)
    · split at h
      · cases guarded_next h
        exact (enterTrap_accesses _ _ _ _).recorded (hb.same rfl rfl)
      · cases guarded_next h
        exact (enterTrap_accesses _ _ _ _).recorded hb
      · unfold runInstruction at h
        split at h
        · rename_i i u hf
          obtain ⟨ops, f⟩ := exec_fits i u t h
          exact f.run.recorded (fetch_recorded hf hb)
        · cases h

/-- No event of the trace is a CPU write. -/
def NoWrite (s : State) : Prop := ∀ a v, BusEvent.write a v ∉ s.trace

theorem applyDma_noWrite (s : State) (d : DmaAccess) (h : NoWrite s) : NoWrite (applyDma s d) := by
  unfold applyDma
  split
  · exact h
  · split
    · intro b w
      simpa using h b w
    all_goals exact h

theorem foldDma_noWrite (turn : List DmaAccess) (s : State) (h : NoWrite s) :
    NoWrite (turn.foldl applyDma s) := by
  induction turn generalizing s with
  | nil => exact h
  | cons d turn ih => exact ih _ (applyDma_noWrite s d h)

theorem dmaTurn_noWrite (s : State) (h : NoWrite s) : NoWrite s.dmaTurn := by
  unfold State.dmaTurn
  split
  · exact h
  · exact foldDma_noWrite _ _ h

/-- A read, with the DMA accesses before it, records no CPU write. -/
theorem readAt_noWrite (a : Word) (s : State) (h : NoWrite s) : NoWrite (readAt a s).2 := by
  have k := dmaTurn_noWrite s h
  unfold readAt busRead
  split
  · exact k
  · exact k
  · intro b w
    rw [(piaRead_piaOnly _ _).trace]
    simpa using k b w
  · exact k

/-! The end of a run. -/

/-- The end state is a boundary at which the run ends, reached by some number of steps, and no state before
it is one (70_reset_and_hazards.md R371). -/
theorem endState_spec (endPc : Word) : ∀ (n : Nat) (s t : State), endState endPc n s = some t →
    t.endedAt endPc ∧ ∃ m ≤ n, Sys2Proof.core.run m s = .next t ∧
      ∀ k < m, ∃ u, Sys2Proof.core.run k s = .next u ∧ ¬ u.endedAt endPc
  | 0, s, t, h => by
    unfold endState at h
    split at h
    · cases h
      rename_i hs
      exact ⟨hs, 0, Nat.le_refl 0, rfl, nofun⟩
    · cases h
  | n + 1, s, t, h => by
    unfold endState at h
    split at h
    · cases h
      rename_i hs
      exact ⟨hs, 0, Nat.zero_le _, rfl, nofun⟩
    · rename_i hs
      split at h
      · rename_i u hu
        obtain ⟨h1, m, hm, h2, h3⟩ := endState_spec endPc n u t h
        have run : ∀ k, Sys2Proof.core.run (k + 1) s = Sys2Proof.core.run k u := by
          intro k
          have e : Sys2Proof.core.step s = .next u := hu
          simp only [Host.Core.run, e]
        refine ⟨h1, m + 1, by omega, (run m).trans h2, fun k hk => ?_⟩
        cases k with
        | zero => exact ⟨s, rfl, hs⟩
        | succ k => exact (h3 k (by omega)).imp fun v hv => ⟨(run k).trans hv.1, hv.2⟩
      · cases h
      · cases h

end Sys2Proof.Machine
end

