-- ==== Sys2Proof/Laws/Stack.lean ====
section
/-! SUPPORT. Words and their bytes, stack addresses, and what reads, pushes and pulls do where memory answers
and the DMA agent is absent. -/

namespace Sys2Proof

/-- The two bytes of a word put together again (20_memory.md R43). -/
theorem wordOf_bytes (w : Word) : wordOf (hiByte w) (loByte w) = w := by
  simp only [wordOf, hiByte, loByte]
  apply BitVec.eq_of_getLsbD_eq
  intro i hi
  simp only [BitVec.getLsbD_append, BitVec.getLsbD_extractLsb']
  by_cases h : i < 8
  · simp [h]
  · have e : 8 + (i - 8) = i := by omega
    have f : i - 8 < 8 := by omega
    simp [h, e, f]

theorem hiByte_eq (w : Word) : hiByte w = BitVec.ofNat 8 (w.toNat / 256) := by
  apply BitVec.eq_of_toNat_eq
  simp [hiByte, BitVec.extractLsb'_toNat, Nat.shiftRight_eq_div_pow]

theorem loByte_eq (w : Word) : loByte w = BitVec.ofNat 8 w.toNat := by
  apply BitVec.eq_of_toNat_eq
  simp [loByte, BitVec.extractLsb'_toNat]

end Sys2Proof

namespace Sys2Proof.Machine

/-- The stack lies in page 1 (20_memory.md R45). -/
theorem stackAddr_toNat (b : Byte) : (stackAddr b).toNat = 256 + b.toNat := by
  have k : ∀ b : Byte, (stackAddr b).toNat = 256 + b.toNat := by decide
  exact k b

/-- Memory is not the PIA. -/
theorem isPia_of_memory {s : State} {a : Word} (h : IsMemory s a) : s.platform.isPia a = false := by
  rw [← Bool.not_eq_true, isPia_iff_target]
  rintro ⟨r, hr⟩
  rcases h with h | h <;> simp [hr] at h

theorem readAt_memory {s : State} {a : Word} (h : NoDma s) (t : IsMemory s a) :
    readAt a s = (s.peek a, s) := by
  rcases t with t | t
  · exact readAt_ram h t
  · exact readAt_rom h t

theorem readWord_memory {s : State} {a : Word} (h : NoDma s) (t : IsMemory s a)
    (u : IsMemory s (a + 1#16)) :
    readWord a s = (wordOf (s.peek (a + 1#16)) (s.peek a), s) := by
  simp only [readWord]
  rw [readAt_memory h t]
  simp only
  rw [readAt_memory h u]

/-- A push to RAM (20_memory.md R47). -/
theorem push_ram {s : State} {v : Byte} (h : NoDma s) (t : IsRam s (stackAddr s.sp)) :
    push v s = { s with
      mem := Memory.write s.mem (stackAddr s.sp).toNat v
      trace := s.trace ++ [BusEvent.write (stackAddr s.sp) v]
      sp := s.sp - 1#8 } := by
  simp only [push]
  rw [writeAt_ram h t]

/-- A pull from memory (20_memory.md R48). -/
theorem pull_memory {s : State} (h : NoDma s) (t : IsMemory s (stackAddr (s.sp + 1#8))) :
    pull s = (s.peek (stackAddr (s.sp + 1#8)), { s with sp := s.sp + 1#8 }) := by
  simp only [pull]
  exact readAt_memory (s := { s with sp := s.sp + 1#8 }) h t

theorem pushWord_ram {s : State} {w : Word} (h : NoDma s) (t : IsRam s (stackAddr s.sp))
    (u : IsRam s (stackAddr (s.sp - 1#8))) :
    pushWord w s = { s with
      mem := Memory.write (Memory.write s.mem (stackAddr s.sp).toNat (hiByte w))
        (stackAddr (s.sp - 1#8)).toNat (loByte w)
      trace := s.trace ++ [BusEvent.write (stackAddr s.sp) (hiByte w)] ++ [BusEvent.write (stackAddr (s.sp - 1#8)) (loByte w)]
      sp := s.sp - 1#8 - 1#8 } := by
  simp only [pushWord]
  rw [push_ram h t]
  exact push_ram (by exact h) (by exact u)

theorem pullWord_memory {s : State} (h : NoDma s) (t : IsMemory s (stackAddr (s.sp + 1#8)))
    (u : IsMemory s (stackAddr (s.sp + 1#8 + 1#8))) :
    pullWord s = (wordOf (s.peek (stackAddr (s.sp + 1#8 + 1#8))) (s.peek (stackAddr (s.sp + 1#8))),
      { s with sp := s.sp + 1#8 + 1#8 }) := by
  simp only [pullWord]
  rw [pull_memory h t]
  have k := pull_memory (s := { s with sp := s.sp + 1#8 }) h u
  simp only at k ⊢
  rw [k]
  rfl

/-- What a trap entry leaves in the registers, whatever answers its accesses (60_exceptions.md R270). -/
theorem enterTrap_registers (vec ret : Word) (b : Bool) (s : State) :
    (enterTrap vec ret b s).a = s.a ∧ (enterTrap vec ret b s).x = s.x ∧
      (enterTrap vec ret b s).y = s.y ∧ (enterTrap vec ret b s).sp = s.sp - 1#8 - 1#8 - 1#8 ∧
      (enterTrap vec ret b s).p = { s.p with i := true, d := false } := by
  simp [enterTrap, pushWord, push]

end Sys2Proof.Machine
end

