-- ==== Sys2Proof/Laws/State.lean ====
section
/-! SUPPORT. What each small update of the state does to each field: one lemma per field, true by rfl. -/

namespace Sys2Proof.Machine

/-! `State.advance` -/

@[simp] theorem State.advance_a (s : State) (len : Nat) : (s.advance len).a = s.a := rfl
@[simp] theorem State.advance_x (s : State) (len : Nat) : (s.advance len).x = s.x := rfl
@[simp] theorem State.advance_y (s : State) (len : Nat) : (s.advance len).y = s.y := rfl
@[simp] theorem State.advance_sp (s : State) (len : Nat) : (s.advance len).sp = s.sp := rfl
@[simp] theorem State.advance_pc (s : State) (len : Nat) : (s.advance len).pc = s.pc + BitVec.ofNat 16 len := rfl
@[simp] theorem State.advance_p (s : State) (len : Nat) : (s.advance len).p = s.p := rfl
@[simp] theorem State.advance_mem (s : State) (len : Nat) : (s.advance len).mem = s.mem := rfl
@[simp] theorem State.advance_nmiPending (s : State) (len : Nat) : (s.advance len).nmiPending = s.nmiPending := rfl
@[simp] theorem State.advance_resLine (s : State) (len : Nat) : (s.advance len).resLine = s.resLine := rfl
@[simp] theorem State.advance_resetPending (s : State) (len : Nat) : (s.advance len).resetPending = s.resetPending := rfl
@[simp] theorem State.advance_extIrq (s : State) (len : Nat) : (s.advance len).extIrq = s.extIrq := rfl
@[simp] theorem State.advance_extNmi (s : State) (len : Nat) : (s.advance len).extNmi = s.extNmi := rfl
@[simp] theorem State.advance_slackI (s : State) (len : Nat) : (s.advance len).slackI = s.slackI := rfl
@[simp] theorem State.advance_slackLine (s : State) (len : Nat) : (s.advance len).slackLine = s.slackLine := rfl
@[simp] theorem State.advance_pia (s : State) (len : Nat) : (s.advance len).pia = s.pia := rfl
@[simp] theorem State.advance_platform (s : State) (len : Nat) : (s.advance len).platform = s.platform := rfl
@[simp] theorem State.advance_draws (s : State) (len : Nat) : (s.advance len).draws = s.draws := rfl
@[simp] theorem State.advance_agenda (s : State) (len : Nat) : (s.advance len).agenda = s.agenda := rfl
@[simp] theorem State.advance_dmaTurns (s : State) (len : Nat) : (s.advance len).dmaTurns = s.dmaTurns := rfl
@[simp] theorem State.advance_pinEvents (s : State) (len : Nat) : (s.advance len).pinEvents = s.pinEvents := rfl
@[simp] theorem State.advance_trace (s : State) (len : Nat) : (s.advance len).trace = s.trace := rfl

/-! `loadA` -/

@[simp] theorem loadA_a (v : Byte) (s : State) : (loadA v s).a = v := rfl
@[simp] theorem loadA_x (v : Byte) (s : State) : (loadA v s).x = s.x := rfl
@[simp] theorem loadA_y (v : Byte) (s : State) : (loadA v s).y = s.y := rfl
@[simp] theorem loadA_sp (v : Byte) (s : State) : (loadA v s).sp = s.sp := rfl
@[simp] theorem loadA_pc (v : Byte) (s : State) : (loadA v s).pc = s.pc := rfl
@[simp] theorem loadA_p (v : Byte) (s : State) : (loadA v s).p = Flags.setNZ s.p v := rfl
@[simp] theorem loadA_mem (v : Byte) (s : State) : (loadA v s).mem = s.mem := rfl
@[simp] theorem loadA_nmiPending (v : Byte) (s : State) : (loadA v s).nmiPending = s.nmiPending := rfl
@[simp] theorem loadA_resLine (v : Byte) (s : State) : (loadA v s).resLine = s.resLine := rfl
@[simp] theorem loadA_resetPending (v : Byte) (s : State) : (loadA v s).resetPending = s.resetPending := rfl
@[simp] theorem loadA_extIrq (v : Byte) (s : State) : (loadA v s).extIrq = s.extIrq := rfl
@[simp] theorem loadA_extNmi (v : Byte) (s : State) : (loadA v s).extNmi = s.extNmi := rfl
@[simp] theorem loadA_slackI (v : Byte) (s : State) : (loadA v s).slackI = s.slackI := rfl
@[simp] theorem loadA_slackLine (v : Byte) (s : State) : (loadA v s).slackLine = s.slackLine := rfl
@[simp] theorem loadA_pia (v : Byte) (s : State) : (loadA v s).pia = s.pia := rfl
@[simp] theorem loadA_platform (v : Byte) (s : State) : (loadA v s).platform = s.platform := rfl
@[simp] theorem loadA_draws (v : Byte) (s : State) : (loadA v s).draws = s.draws := rfl
@[simp] theorem loadA_agenda (v : Byte) (s : State) : (loadA v s).agenda = s.agenda := rfl
@[simp] theorem loadA_dmaTurns (v : Byte) (s : State) : (loadA v s).dmaTurns = s.dmaTurns := rfl
@[simp] theorem loadA_pinEvents (v : Byte) (s : State) : (loadA v s).pinEvents = s.pinEvents := rfl
@[simp] theorem loadA_trace (v : Byte) (s : State) : (loadA v s).trace = s.trace := rfl

/-! `loadX` -/

@[simp] theorem loadX_a (v : Byte) (s : State) : (loadX v s).a = s.a := rfl
@[simp] theorem loadX_x (v : Byte) (s : State) : (loadX v s).x = v := rfl
@[simp] theorem loadX_y (v : Byte) (s : State) : (loadX v s).y = s.y := rfl
@[simp] theorem loadX_sp (v : Byte) (s : State) : (loadX v s).sp = s.sp := rfl
@[simp] theorem loadX_pc (v : Byte) (s : State) : (loadX v s).pc = s.pc := rfl
@[simp] theorem loadX_p (v : Byte) (s : State) : (loadX v s).p = Flags.setNZ s.p v := rfl
@[simp] theorem loadX_mem (v : Byte) (s : State) : (loadX v s).mem = s.mem := rfl
@[simp] theorem loadX_nmiPending (v : Byte) (s : State) : (loadX v s).nmiPending = s.nmiPending := rfl
@[simp] theorem loadX_resLine (v : Byte) (s : State) : (loadX v s).resLine = s.resLine := rfl
@[simp] theorem loadX_resetPending (v : Byte) (s : State) : (loadX v s).resetPending = s.resetPending := rfl
@[simp] theorem loadX_extIrq (v : Byte) (s : State) : (loadX v s).extIrq = s.extIrq := rfl
@[simp] theorem loadX_extNmi (v : Byte) (s : State) : (loadX v s).extNmi = s.extNmi := rfl
@[simp] theorem loadX_slackI (v : Byte) (s : State) : (loadX v s).slackI = s.slackI := rfl
@[simp] theorem loadX_slackLine (v : Byte) (s : State) : (loadX v s).slackLine = s.slackLine := rfl
@[simp] theorem loadX_pia (v : Byte) (s : State) : (loadX v s).pia = s.pia := rfl
@[simp] theorem loadX_platform (v : Byte) (s : State) : (loadX v s).platform = s.platform := rfl
@[simp] theorem loadX_draws (v : Byte) (s : State) : (loadX v s).draws = s.draws := rfl
@[simp] theorem loadX_agenda (v : Byte) (s : State) : (loadX v s).agenda = s.agenda := rfl
@[simp] theorem loadX_dmaTurns (v : Byte) (s : State) : (loadX v s).dmaTurns = s.dmaTurns := rfl
@[simp] theorem loadX_pinEvents (v : Byte) (s : State) : (loadX v s).pinEvents = s.pinEvents := rfl
@[simp] theorem loadX_trace (v : Byte) (s : State) : (loadX v s).trace = s.trace := rfl

/-! `loadY` -/

@[simp] theorem loadY_a (v : Byte) (s : State) : (loadY v s).a = s.a := rfl
@[simp] theorem loadY_x (v : Byte) (s : State) : (loadY v s).x = s.x := rfl
@[simp] theorem loadY_y (v : Byte) (s : State) : (loadY v s).y = v := rfl
@[simp] theorem loadY_sp (v : Byte) (s : State) : (loadY v s).sp = s.sp := rfl
@[simp] theorem loadY_pc (v : Byte) (s : State) : (loadY v s).pc = s.pc := rfl
@[simp] theorem loadY_p (v : Byte) (s : State) : (loadY v s).p = Flags.setNZ s.p v := rfl
@[simp] theorem loadY_mem (v : Byte) (s : State) : (loadY v s).mem = s.mem := rfl
@[simp] theorem loadY_nmiPending (v : Byte) (s : State) : (loadY v s).nmiPending = s.nmiPending := rfl
@[simp] theorem loadY_resLine (v : Byte) (s : State) : (loadY v s).resLine = s.resLine := rfl
@[simp] theorem loadY_resetPending (v : Byte) (s : State) : (loadY v s).resetPending = s.resetPending := rfl
@[simp] theorem loadY_extIrq (v : Byte) (s : State) : (loadY v s).extIrq = s.extIrq := rfl
@[simp] theorem loadY_extNmi (v : Byte) (s : State) : (loadY v s).extNmi = s.extNmi := rfl
@[simp] theorem loadY_slackI (v : Byte) (s : State) : (loadY v s).slackI = s.slackI := rfl
@[simp] theorem loadY_slackLine (v : Byte) (s : State) : (loadY v s).slackLine = s.slackLine := rfl
@[simp] theorem loadY_pia (v : Byte) (s : State) : (loadY v s).pia = s.pia := rfl
@[simp] theorem loadY_platform (v : Byte) (s : State) : (loadY v s).platform = s.platform := rfl
@[simp] theorem loadY_draws (v : Byte) (s : State) : (loadY v s).draws = s.draws := rfl
@[simp] theorem loadY_agenda (v : Byte) (s : State) : (loadY v s).agenda = s.agenda := rfl
@[simp] theorem loadY_dmaTurns (v : Byte) (s : State) : (loadY v s).dmaTurns = s.dmaTurns := rfl
@[simp] theorem loadY_pinEvents (v : Byte) (s : State) : (loadY v s).pinEvents = s.pinEvents := rfl
@[simp] theorem loadY_trace (v : Byte) (s : State) : (loadY v s).trace = s.trace := rfl

/-! `State.clearSlack` -/

@[simp] theorem State.clearSlack_a (s : State) : (s.clearSlack).a = s.a := rfl
@[simp] theorem State.clearSlack_x (s : State) : (s.clearSlack).x = s.x := rfl
@[simp] theorem State.clearSlack_y (s : State) : (s.clearSlack).y = s.y := rfl
@[simp] theorem State.clearSlack_sp (s : State) : (s.clearSlack).sp = s.sp := rfl
@[simp] theorem State.clearSlack_pc (s : State) : (s.clearSlack).pc = s.pc := rfl
@[simp] theorem State.clearSlack_p (s : State) : (s.clearSlack).p = s.p := rfl
@[simp] theorem State.clearSlack_mem (s : State) : (s.clearSlack).mem = s.mem := rfl
@[simp] theorem State.clearSlack_nmiPending (s : State) : (s.clearSlack).nmiPending = s.nmiPending := rfl
@[simp] theorem State.clearSlack_resLine (s : State) : (s.clearSlack).resLine = s.resLine := rfl
@[simp] theorem State.clearSlack_resetPending (s : State) : (s.clearSlack).resetPending = s.resetPending := rfl
@[simp] theorem State.clearSlack_extIrq (s : State) : (s.clearSlack).extIrq = s.extIrq := rfl
@[simp] theorem State.clearSlack_extNmi (s : State) : (s.clearSlack).extNmi = s.extNmi := rfl
@[simp] theorem State.clearSlack_slackI (s : State) : (s.clearSlack).slackI = none := rfl
@[simp] theorem State.clearSlack_slackLine (s : State) : (s.clearSlack).slackLine = none := rfl
@[simp] theorem State.clearSlack_pia (s : State) : (s.clearSlack).pia = s.pia := rfl
@[simp] theorem State.clearSlack_platform (s : State) : (s.clearSlack).platform = s.platform := rfl
@[simp] theorem State.clearSlack_draws (s : State) : (s.clearSlack).draws = s.draws := rfl
@[simp] theorem State.clearSlack_agenda (s : State) : (s.clearSlack).agenda = s.agenda := rfl
@[simp] theorem State.clearSlack_dmaTurns (s : State) : (s.clearSlack).dmaTurns = s.dmaTurns := rfl
@[simp] theorem State.clearSlack_pinEvents (s : State) : (s.clearSlack).pinEvents = s.pinEvents := rfl
@[simp] theorem State.clearSlack_trace (s : State) : (s.clearSlack).trace = s.trace := rfl

/-! `State.clearTrace` -/

@[simp] theorem State.clearTrace_a (s : State) : (s.clearTrace).a = s.a := rfl
@[simp] theorem State.clearTrace_x (s : State) : (s.clearTrace).x = s.x := rfl
@[simp] theorem State.clearTrace_y (s : State) : (s.clearTrace).y = s.y := rfl
@[simp] theorem State.clearTrace_sp (s : State) : (s.clearTrace).sp = s.sp := rfl
@[simp] theorem State.clearTrace_pc (s : State) : (s.clearTrace).pc = s.pc := rfl
@[simp] theorem State.clearTrace_p (s : State) : (s.clearTrace).p = s.p := rfl
@[simp] theorem State.clearTrace_mem (s : State) : (s.clearTrace).mem = s.mem := rfl
@[simp] theorem State.clearTrace_nmiPending (s : State) : (s.clearTrace).nmiPending = s.nmiPending := rfl
@[simp] theorem State.clearTrace_resLine (s : State) : (s.clearTrace).resLine = s.resLine := rfl
@[simp] theorem State.clearTrace_resetPending (s : State) : (s.clearTrace).resetPending = s.resetPending := rfl
@[simp] theorem State.clearTrace_extIrq (s : State) : (s.clearTrace).extIrq = s.extIrq := rfl
@[simp] theorem State.clearTrace_extNmi (s : State) : (s.clearTrace).extNmi = s.extNmi := rfl
@[simp] theorem State.clearTrace_slackI (s : State) : (s.clearTrace).slackI = s.slackI := rfl
@[simp] theorem State.clearTrace_slackLine (s : State) : (s.clearTrace).slackLine = s.slackLine := rfl
@[simp] theorem State.clearTrace_pia (s : State) : (s.clearTrace).pia = s.pia := rfl
@[simp] theorem State.clearTrace_platform (s : State) : (s.clearTrace).platform = s.platform := rfl
@[simp] theorem State.clearTrace_draws (s : State) : (s.clearTrace).draws = s.draws := rfl
@[simp] theorem State.clearTrace_agenda (s : State) : (s.clearTrace).agenda = s.agenda := rfl
@[simp] theorem State.clearTrace_dmaTurns (s : State) : (s.clearTrace).dmaTurns = s.dmaTurns := rfl
@[simp] theorem State.clearTrace_pinEvents (s : State) : (s.clearTrace).pinEvents = [] := rfl
@[simp] theorem State.clearTrace_trace (s : State) : (s.clearTrace).trace = [] := rfl

/-! `Flags.setNZ` -/

@[simp] theorem Flags.setNZ_n (p : Flags) (v : Byte) : (Flags.setNZ p v).n = v.msb := rfl
@[simp] theorem Flags.setNZ_v (p : Flags) (v : Byte) : (Flags.setNZ p v).v = p.v := rfl
@[simp] theorem Flags.setNZ_d (p : Flags) (v : Byte) : (Flags.setNZ p v).d = p.d := rfl
@[simp] theorem Flags.setNZ_i (p : Flags) (v : Byte) : (Flags.setNZ p v).i = p.i := rfl
@[simp] theorem Flags.setNZ_z (p : Flags) (v : Byte) : (Flags.setNZ p v).z = decide (v = 0#8) := rfl
@[simp] theorem Flags.setNZ_c (p : Flags) (v : Byte) : (Flags.setNZ p v).c = p.c := rfl

end Sys2Proof.Machine
end

