-- ==== Sys2Proof/Timing.lean ====
section
/-! DEFINITION. The cycle counts the spec prints (70_reset_and_hazards.md R366, 40_addressing_modes.md R117).
They are non-normative: no step reads them, and the machine is untimed (00_scope.md R3). -/

namespace Sys2Proof.Timing

/-- The T column: cycles of the base form of a mnemonic (70_reset_and_hazards.md R366). None for the
65C02 additions, which have no count (R367). -/
def baseCycles (m : String) : Option Nat :=
  if m ∈ ["ASLA", "LSRA", "ROLA", "RORA", "BCC", "BCS", "BEQ", "BMI", "BNE", "BPL", "BVC", "BVS",
      "CLC", "CLD", "CLI", "CLV", "SEC", "SED", "SEI", "DEX", "DEY", "INX", "INY", "NOP",
      "TAX", "TAY", "TSX", "TXA", "TXS", "TYA"] then some 2
  else if m ∈ ["JMP", "PHA", "PHP"] then some 3
  else if m ∈ ["ADC", "AND", "BIT", "CMP", "CPX", "CPY", "EOR", "LDA", "LDX", "LDY", "ORA", "SBC",
      "STA", "STX", "STY", "PLA", "PLP"] then some 4
  else if m ∈ ["ASL", "LSR", "ROL", "ROR", "INC", "DEC", "JSR", "RTI", "RTS"] then some 6
  else if m = "BRK" then some 7
  else none

/-- The change a format makes to the count (70_reset_and_hazards.md R366). None for the two 65C02 modes,
which have no count (R367). -/
def formatDelta : Format → Option Int
  | .imp => some 0
  | .acc => some 0
  | .imm => some (-2)
  | .zp => some (-1)
  | .zpx => some 0
  | .zpy => some 0
  | .rel => some 2
  | .izx => some 2
  | .izy => some 1
  | .izp => none
  | .abs => some 0
  | .abx => some 0
  | .aby => some 0
  | .ind => some 2
  | .iax => none

/-- The printed count of an instruction, without the page-crossing cycle. -/
def printedCycles (i : Instr) : Option Int :=
  match baseCycles i.mnemonic, formatDelta i.format with
  | some t, some d => some (t + d)
  | some _, none => none
  | none, _ => none

/-- The `%` mark: one cycle more on a page crossing (70_reset_and_hazards.md R366). -/
def crossingMark (m : String) : Bool :=
  decide (m ∈ ["ADC", "AND", "LDA", "LDX", "LDY", "SBC",
    "BCC", "BCS", "BEQ", "BMI", "BNE", "BPL", "BVC", "BVS"])

/-- Adding an index to the low address byte carries (40_addressing_modes.md R117). -/
def indexCrosses (low index : Byte) : Bool := decide (256 ≤ low.toNat + index.toNat)

/-- A taken branch lands in another page than the next instruction (40_addressing_modes.md R117). -/
def branchCrosses (pc target : Word) : Bool := decide (hiByte target ≠ hiByte (pc + 2#16))

end Sys2Proof.Timing
end

