-- ==== Sys2Proof/Tests/Slice0.lean ====
section
/-! SUPPORT. Tests. Expected results come from spec/95_test_vectors.md, from the rule a comment names, or from
the encodings of spec/30_encoding.md written out; the last part shows states that meet the hypotheses of the
statements. -/

namespace Sys2Proof.Tests

open Sys2Proof.Machine Sys2Proof.Claims

/-! Helpers. -/

/-- The start of 95_test_vectors.md Part 2: PC = 0600, S = FF, flags and registers 0. -/
def start : State := { State.reset with
  pc := 0x0600#16
  sp := 0xFF#8
  p := { n := false, v := false, d := false, i := false, z := false, c := false } }

/-- `s` with these bytes in memory. -/
def put (s : State) (cells : List (Word × Byte)) : State :=
  { s with mem := cells.foldl (fun m c => Memory.write m c.1.toNat c.2) s.mem }

/-- `s` with these bytes at PC. -/
def code (s : State) (bytes : List Byte) : State := { s with mem := storeBytes s.mem s.pc bytes }

/-- The state after one step, the state itself where the step stops. -/
def after (s : State) : State :=
  match step s with
  | .next t => t
  | .fault _ => s
  | .refused _ => s

/-- Flags from the letters that are 1. -/
def flags (l : List Char) : Flags :=
  { n := l.contains 'N', v := l.contains 'V', d := l.contains 'D', i := l.contains 'I',
    z := l.contains 'Z', c := l.contains 'C' }

/-- One step of the bytes from the start with A, X, Y, flags and memory given. -/
def run (bytes : List Byte) (a x y : Byte) (fl : List Char) (cells : List (Word × Byte)) : State :=
  after (code (put { start with a := a, x := x, y := y, p := flags fl } cells) bytes)

/-! Well-formedness: each check refuses one ill-formed platform, and the default passes. -/

theorem test_wf_standard : Platform.standard.wellFormed = true := by decide

theorem test_wf_same_lines : Platform.wiringOk { Platform.standard with rs1Line := 0 } = false := by decide

theorem test_wf_base_line_high :
    Platform.wiringOk { Platform.standard with piaBase := some 0x8001#16 } = false := by decide

theorem test_wf_region_outside :
    Platform.regionsInside { Platform.standard with memmap := [⟨0xFF00, 0x101, .ram⟩] } = false := by
  decide

theorem test_wf_regions_overlap :
    Platform.regionsDisjoint
      { Platform.standard with memmap := [⟨0, 0x200, .ram⟩, ⟨0x1FF, 2, .rom⟩] } = false := by decide

theorem test_wf_clock_slow : Platform.clockOk { Platform.standard with clockHz := 999999 } = false := by
  decide

theorem test_wf_clock_fast : Platform.clockOk { Platform.standard with clockHz := 4000001 } = false := by
  decide

theorem test_wf_refuses :
    Platform.wellFormed { Platform.standard with rs1Line := 0 } = false ∧
    Platform.wellFormed { Platform.standard with memmap := [⟨0xFF00, 0x101, .ram⟩] } = false ∧
    Platform.wellFormed { Platform.standard with clockHz := 0 } = false := by decide

/-! Decoding: every cell of the opcode map (30_encoding.md R82), its word written out, operand byte 5A or
operand word 1234, low byte first (R83). -/

theorem test_decode_row_0 :
    decodeTableWord 8 0x00 = some .brk ∧
    decodeTableWord 16 0x5A01 = some (.oraIzx 0x5A#8) ∧
    decodeTableWord 16 0x5A04 = some (.tsbZp 0x5A#8) ∧
    decodeTableWord 16 0x5A05 = some (.oraZp 0x5A#8) ∧
    decodeTableWord 16 0x5A06 = some (.aslZp 0x5A#8) ∧
    decodeTableWord 8 0x08 = some .php ∧
    decodeTableWord 16 0x5A09 = some (.oraImm 0x5A#8) ∧
    decodeTableWord 8 0x0A = some .asla ∧
    decodeTableWord 24 0x12340C = some (.tsbAbs 0x1234#16) ∧
    decodeTableWord 24 0x12340D = some (.oraAbs 0x1234#16) ∧
    decodeTableWord 24 0x12340E = some (.aslAbs 0x1234#16) := by
  decide

theorem test_decode_row_1 :
    decodeTableWord 16 0x5A10 = some (.bpl 0x5A#8) ∧
    decodeTableWord 16 0x5A11 = some (.oraIzy 0x5A#8) ∧
    decodeTableWord 16 0x5A12 = some (.oraIzp 0x5A#8) ∧
    decodeTableWord 16 0x5A14 = some (.trbZp 0x5A#8) ∧
    decodeTableWord 16 0x5A15 = some (.oraZpx 0x5A#8) ∧
    decodeTableWord 16 0x5A16 = some (.aslZpx 0x5A#8) ∧
    decodeTableWord 8 0x18 = some .clc ∧
    decodeTableWord 24 0x123419 = some (.oraAby 0x1234#16) ∧
    decodeTableWord 8 0x1A = some .ina ∧
    decodeTableWord 24 0x12341C = some (.trbAbs 0x1234#16) ∧
    decodeTableWord 24 0x12341D = some (.oraAbx 0x1234#16) ∧
    decodeTableWord 24 0x12341E = some (.aslAbx 0x1234#16) := by
  decide

theorem test_decode_row_2 :
    decodeTableWord 24 0x123420 = some (.jsr 0x1234#16) ∧
    decodeTableWord 16 0x5A21 = some (.andIzx 0x5A#8) ∧
    decodeTableWord 16 0x5A24 = some (.bitZp 0x5A#8) ∧
    decodeTableWord 16 0x5A25 = some (.andZp 0x5A#8) ∧
    decodeTableWord 16 0x5A26 = some (.rolZp 0x5A#8) ∧
    decodeTableWord 8 0x28 = some .plp ∧
    decodeTableWord 16 0x5A29 = some (.andImm 0x5A#8) ∧
    decodeTableWord 8 0x2A = some .rola ∧
    decodeTableWord 24 0x12342C = some (.bitAbs 0x1234#16) ∧
    decodeTableWord 24 0x12342D = some (.andAbs 0x1234#16) ∧
    decodeTableWord 24 0x12342E = some (.rolAbs 0x1234#16) := by
  decide

theorem test_decode_row_3 :
    decodeTableWord 16 0x5A30 = some (.bmi 0x5A#8) ∧
    decodeTableWord 16 0x5A31 = some (.andIzy 0x5A#8) ∧
    decodeTableWord 16 0x5A32 = some (.andIzp 0x5A#8) ∧
    decodeTableWord 16 0x5A35 = some (.andZpx 0x5A#8) ∧
    decodeTableWord 16 0x5A36 = some (.rolZpx 0x5A#8) ∧
    decodeTableWord 8 0x38 = some .sec ∧
    decodeTableWord 24 0x123439 = some (.andAby 0x1234#16) ∧
    decodeTableWord 8 0x3A = some .dea ∧
    decodeTableWord 24 0x12343D = some (.andAbx 0x1234#16) ∧
    decodeTableWord 24 0x12343E = some (.rolAbx 0x1234#16) := by
  decide

theorem test_decode_row_4 :
    decodeTableWord 8 0x40 = some .rti ∧
    decodeTableWord 16 0x5A41 = some (.eorIzx 0x5A#8) ∧
    decodeTableWord 16 0x5A45 = some (.eorZp 0x5A#8) ∧
    decodeTableWord 16 0x5A46 = some (.lsrZp 0x5A#8) ∧
    decodeTableWord 8 0x48 = some .pha ∧
    decodeTableWord 16 0x5A49 = some (.eorImm 0x5A#8) ∧
    decodeTableWord 8 0x4A = some .lsra ∧
    decodeTableWord 24 0x12344C = some (.jmpAbs 0x1234#16) ∧
    decodeTableWord 24 0x12344D = some (.eorAbs 0x1234#16) ∧
    decodeTableWord 24 0x12344E = some (.lsrAbs 0x1234#16) := by
  decide

theorem test_decode_row_5 :
    decodeTableWord 16 0x5A50 = some (.bvc 0x5A#8) ∧
    decodeTableWord 16 0x5A51 = some (.eorIzy 0x5A#8) ∧
    decodeTableWord 16 0x5A52 = some (.eorIzp 0x5A#8) ∧
    decodeTableWord 16 0x5A55 = some (.eorZpx 0x5A#8) ∧
    decodeTableWord 16 0x5A56 = some (.lsrZpx 0x5A#8) ∧
    decodeTableWord 8 0x58 = some .cli ∧
    decodeTableWord 24 0x123459 = some (.eorAby 0x1234#16) ∧
    decodeTableWord 8 0x5A = some .phy ∧
    decodeTableWord 24 0x12345D = some (.eorAbx 0x1234#16) ∧
    decodeTableWord 24 0x12345E = some (.lsrAbx 0x1234#16) := by
  decide

theorem test_decode_row_6 :
    decodeTableWord 8 0x60 = some .rts ∧
    decodeTableWord 16 0x5A61 = some (.adcIzx 0x5A#8) ∧
    decodeTableWord 16 0x5A64 = some (.stzZp 0x5A#8) ∧
    decodeTableWord 16 0x5A65 = some (.adcZp 0x5A#8) ∧
    decodeTableWord 16 0x5A66 = some (.rorZp 0x5A#8) ∧
    decodeTableWord 8 0x68 = some .pla ∧
    decodeTableWord 16 0x5A69 = some (.adcImm 0x5A#8) ∧
    decodeTableWord 8 0x6A = some .rora ∧
    decodeTableWord 24 0x12346C = some (.jmpInd 0x1234#16) ∧
    decodeTableWord 24 0x12346D = some (.adcAbs 0x1234#16) ∧
    decodeTableWord 24 0x12346E = some (.rorAbs 0x1234#16) := by
  decide

theorem test_decode_row_7 :
    decodeTableWord 16 0x5A70 = some (.bvs 0x5A#8) ∧
    decodeTableWord 16 0x5A71 = some (.adcIzy 0x5A#8) ∧
    decodeTableWord 16 0x5A72 = some (.adcIzp 0x5A#8) ∧
    decodeTableWord 16 0x5A74 = some (.stzZpx 0x5A#8) ∧
    decodeTableWord 16 0x5A75 = some (.adcZpx 0x5A#8) ∧
    decodeTableWord 16 0x5A76 = some (.rorZpx 0x5A#8) ∧
    decodeTableWord 8 0x78 = some .sei ∧
    decodeTableWord 24 0x123479 = some (.adcAby 0x1234#16) ∧
    decodeTableWord 8 0x7A = some .ply ∧
    decodeTableWord 24 0x12347C = some (.jmpIax 0x1234#16) ∧
    decodeTableWord 24 0x12347D = some (.adcAbx 0x1234#16) ∧
    decodeTableWord 24 0x12347E = some (.rorAbx 0x1234#16) := by
  decide

theorem test_decode_row_8 :
    decodeTableWord 16 0x5A80 = some (.bra 0x5A#8) ∧
    decodeTableWord 16 0x5A81 = some (.staIzx 0x5A#8) ∧
    decodeTableWord 16 0x5A84 = some (.styZp 0x5A#8) ∧
    decodeTableWord 16 0x5A85 = some (.staZp 0x5A#8) ∧
    decodeTableWord 16 0x5A86 = some (.stxZp 0x5A#8) ∧
    decodeTableWord 8 0x88 = some .dey ∧
    decodeTableWord 8 0x8A = some .txa ∧
    decodeTableWord 24 0x12348C = some (.styAbs 0x1234#16) ∧
    decodeTableWord 24 0x12348D = some (.staAbs 0x1234#16) ∧
    decodeTableWord 24 0x12348E = some (.stxAbs 0x1234#16) := by
  decide

theorem test_decode_row_9 :
    decodeTableWord 16 0x5A90 = some (.bcc 0x5A#8) ∧
    decodeTableWord 16 0x5A91 = some (.staIzy 0x5A#8) ∧
    decodeTableWord 16 0x5A92 = some (.staIzp 0x5A#8) ∧
    decodeTableWord 16 0x5A94 = some (.styZpx 0x5A#8) ∧
    decodeTableWord 16 0x5A95 = some (.staZpx 0x5A#8) ∧
    decodeTableWord 16 0x5A96 = some (.stxZpy 0x5A#8) ∧
    decodeTableWord 8 0x98 = some .tya ∧
    decodeTableWord 24 0x123499 = some (.staAby 0x1234#16) ∧
    decodeTableWord 8 0x9A = some .txs ∧
    decodeTableWord 24 0x12349C = some (.stzAbs 0x1234#16) ∧
    decodeTableWord 24 0x12349D = some (.staAbx 0x1234#16) ∧
    decodeTableWord 24 0x12349E = some (.stzAbx 0x1234#16) := by
  decide

theorem test_decode_row_A :
    decodeTableWord 16 0x5AA0 = some (.ldyImm 0x5A#8) ∧
    decodeTableWord 16 0x5AA1 = some (.ldaIzx 0x5A#8) ∧
    decodeTableWord 16 0x5AA2 = some (.ldxImm 0x5A#8) ∧
    decodeTableWord 16 0x5AA4 = some (.ldyZp 0x5A#8) ∧
    decodeTableWord 16 0x5AA5 = some (.ldaZp 0x5A#8) ∧
    decodeTableWord 16 0x5AA6 = some (.ldxZp 0x5A#8) ∧
    decodeTableWord 8 0xA8 = some .tay ∧
    decodeTableWord 16 0x5AA9 = some (.ldaImm 0x5A#8) ∧
    decodeTableWord 8 0xAA = some .tax ∧
    decodeTableWord 24 0x1234AC = some (.ldyAbs 0x1234#16) ∧
    decodeTableWord 24 0x1234AD = some (.ldaAbs 0x1234#16) ∧
    decodeTableWord 24 0x1234AE = some (.ldxAbs 0x1234#16) := by
  decide

theorem test_decode_row_B :
    decodeTableWord 16 0x5AB0 = some (.bcs 0x5A#8) ∧
    decodeTableWord 16 0x5AB1 = some (.ldaIzy 0x5A#8) ∧
    decodeTableWord 16 0x5AB2 = some (.ldaIzp 0x5A#8) ∧
    decodeTableWord 16 0x5AB4 = some (.ldyZpx 0x5A#8) ∧
    decodeTableWord 16 0x5AB5 = some (.ldaZpx 0x5A#8) ∧
    decodeTableWord 16 0x5AB6 = some (.ldxZpy 0x5A#8) ∧
    decodeTableWord 8 0xB8 = some .clv ∧
    decodeTableWord 24 0x1234B9 = some (.ldaAby 0x1234#16) ∧
    decodeTableWord 8 0xBA = some .tsx ∧
    decodeTableWord 24 0x1234BC = some (.ldyAbx 0x1234#16) ∧
    decodeTableWord 24 0x1234BD = some (.ldaAbx 0x1234#16) ∧
    decodeTableWord 24 0x1234BE = some (.ldxAby 0x1234#16) := by
  decide

theorem test_decode_row_C :
    decodeTableWord 16 0x5AC0 = some (.cpyImm 0x5A#8) ∧
    decodeTableWord 16 0x5AC1 = some (.cmpIzx 0x5A#8) ∧
    decodeTableWord 16 0x5AC4 = some (.cpyZp 0x5A#8) ∧
    decodeTableWord 16 0x5AC5 = some (.cmpZp 0x5A#8) ∧
    decodeTableWord 16 0x5AC6 = some (.decZp 0x5A#8) ∧
    decodeTableWord 8 0xC8 = some .iny ∧
    decodeTableWord 16 0x5AC9 = some (.cmpImm 0x5A#8) ∧
    decodeTableWord 8 0xCA = some .dex ∧
    decodeTableWord 24 0x1234CC = some (.cpyAbs 0x1234#16) ∧
    decodeTableWord 24 0x1234CD = some (.cmpAbs 0x1234#16) ∧
    decodeTableWord 24 0x1234CE = some (.decAbs 0x1234#16) := by
  decide

theorem test_decode_row_D :
    decodeTableWord 16 0x5AD0 = some (.bne 0x5A#8) ∧
    decodeTableWord 16 0x5AD1 = some (.cmpIzy 0x5A#8) ∧
    decodeTableWord 16 0x5AD2 = some (.cmpIzp 0x5A#8) ∧
    decodeTableWord 16 0x5AD5 = some (.cmpZpx 0x5A#8) ∧
    decodeTableWord 16 0x5AD6 = some (.decZpx 0x5A#8) ∧
    decodeTableWord 8 0xD8 = some .cld ∧
    decodeTableWord 24 0x1234D9 = some (.cmpAby 0x1234#16) ∧
    decodeTableWord 8 0xDA = some .phx ∧
    decodeTableWord 24 0x1234DD = some (.cmpAbx 0x1234#16) ∧
    decodeTableWord 24 0x1234DE = some (.decAbx 0x1234#16) := by
  decide

theorem test_decode_row_E :
    decodeTableWord 16 0x5AE0 = some (.cpxImm 0x5A#8) ∧
    decodeTableWord 16 0x5AE1 = some (.sbcIzx 0x5A#8) ∧
    decodeTableWord 16 0x5AE4 = some (.cpxZp 0x5A#8) ∧
    decodeTableWord 16 0x5AE5 = some (.sbcZp 0x5A#8) ∧
    decodeTableWord 16 0x5AE6 = some (.incZp 0x5A#8) ∧
    decodeTableWord 8 0xE8 = some .inx ∧
    decodeTableWord 16 0x5AE9 = some (.sbcImm 0x5A#8) ∧
    decodeTableWord 8 0xEA = some .nop ∧
    decodeTableWord 24 0x1234EC = some (.cpxAbs 0x1234#16) ∧
    decodeTableWord 24 0x1234ED = some (.sbcAbs 0x1234#16) ∧
    decodeTableWord 24 0x1234EE = some (.incAbs 0x1234#16) := by
  decide

theorem test_decode_row_F :
    decodeTableWord 16 0x5AF0 = some (.beq 0x5A#8) ∧
    decodeTableWord 16 0x5AF1 = some (.sbcIzy 0x5A#8) ∧
    decodeTableWord 16 0x5AF2 = some (.sbcIzp 0x5A#8) ∧
    decodeTableWord 16 0x5AF5 = some (.sbcZpx 0x5A#8) ∧
    decodeTableWord 16 0x5AF6 = some (.incZpx 0x5A#8) ∧
    decodeTableWord 8 0xF8 = some .sed ∧
    decodeTableWord 24 0x1234F9 = some (.sbcAby 0x1234#16) ∧
    decodeTableWord 8 0xFA = some .plx ∧
    decodeTableWord 24 0x1234FD = some (.sbcAbx 0x1234#16) ∧
    decodeTableWord 24 0x1234FE = some (.incAbx 0x1234#16) := by
  decide

theorem test_decode_refuses_by_name :
    decode [0x02#8, 0x00#8, 0x00#8] = .error (.undocumented 0x02#8) ∧
    decode [0xFF#8] = .error (.undocumented 0xFF#8) ∧
    decode [0xAD#8, 0x34#8] = .error .truncated ∧ decode [] = .error .truncated := ⟨rfl, rfl, rfl, rfl⟩

theorem test_encode : encode (.staAbs 0x0200#16) = [0x8D#8, 0x00#8, 0x02#8] ∧
    encode (.bne 0xFE#8) = [0xD0#8, 0xFE#8] ∧ encode .rts = [0x60#8] := by decide

/-! Reset and the first instruction after it. -/

theorem test_reset_pc_is_vector :
    State.reset.pc = wordOf (State.reset.peek 0xFFFD#16) (State.reset.peek 0xFFFC#16) := by decide

theorem test_withFetchWord_runs :
    (after (State.reset.withFetchWord 16 0x80A9)).a = 0x80#8 ∧
    (after (State.reset.withFetchWord 16 0x80A9)).pc = 0x0002#16 := by decide

theorem test_withFetchWord_changes_memory_only :
    State.reset.withFetchWord 16 0x80A9 =
      { State.reset with mem := [(0, 0xA9#8), (1, 0x80#8)] } := by decide

/-! Loads, stores, transfers (95_test_vectors.md 2.1). -/

theorem test_lda_imm :
    (fun t : State => (t.a, t.p, t.pc))
      (run [0xA9#8, 0x80#8] 0x00#8 0x00#8 0x00#8 [] []) =
      (0x80#8, flags ['N'], 0x0602#16) := by decide

theorem test_lda_zpx_wraps :
    (fun t : State => (t.a, t.p))
      (run [0xB5#8, 0xF0#8] 0x00#8 0x20#8 0x00#8 [] [(0x0010#16, 0x77#8), (0x0110#16, 0x99#8)]) =
      (0x77#8, flags []) := by decide

theorem test_lda_abx :
    (fun t : State => (t.a, t.pc))
      (run [0xBD#8, 0xF0#8, 0x12#8] 0x00#8 0x20#8 0x00#8 [] [(0x1310#16, 0x42#8)]) =
      (0x42#8, 0x0603#16) := by decide

theorem test_lda_aby_wraps :
    (run [0xB9#8, 0xF0#8, 0xFF#8] 0x00#8 0x00#8 0x20#8 [] [(0x0010#16, 0x55#8)]).a = 0x55#8 := by decide

theorem test_lda_izx_pointer_wraps :
    (fun t : State => (t.a, t.p))
      (run [0xA1#8, 0xFE#8] 0x00#8 0x01#8 0x00#8 [] [(0x00FF#16, 0x34#8), (0x0000#16, 0x12#8), (0x0100#16, 0x99#8), (0x1234#16, 0xAB#8)]) =
      (0xAB#8, flags ['N']) := by decide

theorem test_lda_izy :
    (fun t : State => (t.a, t.p))
      (run [0xB1#8, 0x20#8] 0x00#8 0x00#8 0x10#8 [] [(0x0020#16, 0xF8#8), (0x0021#16, 0x12#8), (0x1308#16, 0xCD#8)]) =
      (0xCD#8, flags ['N']) := by decide

theorem test_lda_izp_pointer_wraps :
    (fun t : State => (t.a, t.p))
      (run [0xB2#8, 0xFF#8] 0x00#8 0x00#8 0x00#8 [] [(0x00FF#16, 0x00#8), (0x0000#16, 0x03#8), (0x0100#16, 0x09#8), (0x0300#16, 0xEE#8)]) =
      (0xEE#8, flags ['N']) := by decide

theorem test_ldx_zpy :
    (run [0xB6#8, 0xF0#8] 0x00#8 0x00#8 0x11#8 [] [(0x0001#16, 0x5A#8)]).x = 0x5A#8 := by decide

theorem test_ldy_imm :
    (fun t : State => (t.y, t.p))
      (run [0xA0#8, 0x00#8] 0x00#8 0x00#8 0x01#8 [] []) =
      (0x00#8, flags ['Z']) := by decide

theorem test_sta_zp :
    (fun t : State => (t.peek 0x0010#16, t.p))
      (run [0x85#8, 0x10#8] 0xAA#8 0x00#8 0x00#8 ['N', 'C'] []) =
      (0xAA#8, flags ['N', 'C']) := by decide

theorem test_stx_zpy_wraps :
    (fun t : State => (t.peek 0x0010#16, t.peek 0x0110#16))
      (run [0x96#8, 0x80#8] 0x00#8 0x33#8 0x90#8 [] []) =
      (0x33#8, 0x00#8) := by decide

theorem test_sty_zpx :
    (run [0x94#8, 0x80#8] 0x00#8 0x01#8 0x44#8 [] []).peek 0x0081#16 = 0x44#8 := by decide

theorem test_stz_abx :
    (fun t : State => (t.peek 0x0205#16, t.p))
      (run [0x9E#8, 0x00#8, 0x02#8] 0x00#8 0x05#8 0x00#8 ['N'] [(0x0205#16, 0xFF#8)]) =
      (0x00#8, flags ['N']) := by decide

theorem test_tax :
    (fun t : State => (t.x, t.p))
      (run [0xAA#8] 0xFF#8 0x00#8 0x00#8 [] []) =
      (0xFF#8, flags ['N']) := by decide

theorem test_tay :
    (fun t : State => (t.y, t.p))
      (run [0xA8#8] 0x00#8 0x00#8 0x01#8 ['N'] []) =
      (0x00#8, flags ['Z']) := by decide

theorem test_tsx :
    (fun t : State => (t.x, t.p))
      (run [0xBA#8] 0x00#8 0x00#8 0x00#8 [] []) =
      (0xFF#8, flags ['N']) := by decide

theorem test_txa :
    (fun t : State => (t.a, t.p))
      (run [0x8A#8] 0x05#8 0x00#8 0x00#8 [] []) =
      (0x00#8, flags ['Z']) := by decide

theorem test_txs_no_flags :
    (fun t : State => (t.sp, t.p))
      (run [0x9A#8] 0x00#8 0x80#8 0x00#8 [] []) =
      (0x80#8, flags []) := by decide

theorem test_tya :
    (fun t : State => (t.a, t.p))
      (run [0x98#8] 0x00#8 0x00#8 0x7F#8 [] []) =
      (0x7F#8, flags []) := by decide

/-! Arithmetic (2.2, 2.3). In decimal mode V is free and not looked at. -/

theorem test_adc_carry_in_overflow :
    (fun t : State => (t.a, t.p))
      (run [0x69#8, 0x00#8] 0x7F#8 0x00#8 0x00#8 ['C'] []) =
      (0x80#8, flags ['N', 'V']) := by decide

theorem test_adc_both :
    (fun t : State => (t.a, t.p))
      (run [0x69#8, 0x80#8] 0x80#8 0x00#8 0x00#8 [] []) =
      (0x00#8, flags ['V', 'Z', 'C']) := by decide

theorem test_sbc_borrow :
    (fun t : State => (t.a, t.p))
      (run [0xE9#8, 0xB0#8] 0x50#8 0x00#8 0x00#8 ['C'] []) =
      (0xA0#8, flags ['N', 'V']) := by decide

theorem test_sbc_borrow_in :
    (fun t : State => (t.a, t.p))
      (run [0xE9#8, 0x00#8] 0x00#8 0x00#8 0x00#8 [] []) =
      (0xFF#8, flags ['N']) := by decide

theorem test_adc_decimal :
    (fun t : State => (t.a, t.p.n, t.p.z, t.p.c)) (run [0x69#8, 0x46#8] 0x58#8 0x00#8 0x00#8 ['D', 'C'] []) =
      (0x05#8, false, false, true) := by decide

theorem test_adc_decimal_wraps :
    (fun t : State => (t.a, t.p.n, t.p.z, t.p.c)) (run [0x69#8, 0x01#8] 0x99#8 0x00#8 0x00#8 ['D'] []) =
      (0x00#8, false, true, true) := by decide

theorem test_sbc_decimal_borrow :
    (fun t : State => (t.a, t.p.n, t.p.z, t.p.c)) (run [0xE9#8, 0x21#8] 0x12#8 0x00#8 0x00#8 ['D', 'C'] []) =
      (0x91#8, true, false, false) := by decide

theorem test_sbc_decimal :
    (fun t : State => (t.a, t.p.n, t.p.z, t.p.c)) (run [0xE9#8, 0x25#8] 0x50#8 0x00#8 0x00#8 ['D'] []) =
      (0x24#8, false, false, true) := by decide

theorem test_compare_ignores_decimal :
    (fun t : State => (t.p, t.a))
      (run [0xC9#8, 0x10#8] 0x09#8 0x00#8 0x00#8 ['D'] []) =
      (flags ['N', 'D'], 0x09#8) := by decide

/-! Logic, compare, bit tests (2.4). -/

theorem test_and :
    (fun t : State => (t.a, t.p))
      (run [0x29#8, 0x0F#8] 0xF0#8 0x00#8 0x00#8 ['V', 'C'] []) =
      (0x00#8, flags ['V', 'Z', 'C']) := by decide

theorem test_ora :
    (fun t : State => (t.a, t.p))
      (run [0x09#8, 0x01#8] 0x80#8 0x00#8 0x00#8 [] []) =
      (0x81#8, flags ['N']) := by decide

theorem test_eor :
    (fun t : State => (t.a, t.p))
      (run [0x49#8, 0xFF#8] 0xAA#8 0x00#8 0x00#8 [] []) =
      (0x55#8, flags []) := by decide

theorem test_cmp_equal :
    (fun t : State => (t.a, t.p))
      (run [0xC9#8, 0x40#8] 0x40#8 0x00#8 0x00#8 [] []) =
      (0x40#8, flags ['Z', 'C']) := by decide

theorem test_cmp_unsigned :
    (run [0xC9#8, 0xFF#8] 0x00#8 0x00#8 0x00#8 [] []).p = flags [] := by decide

theorem test_cpx :
    (run [0xE0#8, 0x0A#8] 0x00#8 0x05#8 0x00#8 [] []).p = flags ['N'] := by decide

theorem test_cpy :
    (run [0xC0#8, 0xFF#8] 0x00#8 0x00#8 0xFF#8 [] []).p = flags ['Z', 'C'] := by decide

theorem test_bit_memory_bits :
    (fun t : State => (t.a, t.p, t.peek 0x0010#16))
      (run [0x24#8, 0x10#8] 0x0F#8 0x00#8 0x00#8 [] [(0x0010#16, 0xC0#8)]) =
      (0x0F#8, flags ['N', 'V', 'Z'], 0xC0#8) := by decide

theorem test_bit_clears :
    (run [0x24#8, 0x10#8] 0x01#8 0x00#8 0x00#8 ['N', 'V'] [(0x0010#16, 0x01#8)]).p = flags [] := by decide

theorem test_tsb :
    (fun t : State => (t.peek 0x0010#16, t.p))
      (run [0x04#8, 0x10#8] 0x0F#8 0x00#8 0x00#8 ['N', 'V', 'C'] [(0x0010#16, 0xF0#8)]) =
      (0xFF#8, flags ['N', 'V', 'Z', 'C']) := by decide

theorem test_trb :
    (fun t : State => (t.peek 0x0010#16, t.p))
      (run [0x14#8, 0x10#8] 0x0F#8 0x00#8 0x00#8 ['Z'] [(0x0010#16, 0xFF#8)]) =
      (0xF0#8, flags []) := by decide

/-! Shifts and increments (2.5). -/

theorem test_asl :
    (fun t : State => (t.peek 0x0010#16, t.p))
      (run [0x06#8, 0x10#8] 0x00#8 0x00#8 0x00#8 ['C'] [(0x0010#16, 0x40#8)]) =
      (0x80#8, flags ['N']) := by decide

theorem test_asla :
    (fun t : State => (t.a, t.p))
      (run [0x0A#8] 0xFF#8 0x00#8 0x00#8 [] []) =
      (0xFE#8, flags ['N', 'C']) := by decide

theorem test_lsr :
    (fun t : State => (t.peek 0x0010#16, t.p))
      (run [0x46#8, 0x10#8] 0x00#8 0x00#8 0x00#8 ['N', 'C'] [(0x0010#16, 0x80#8)]) =
      (0x40#8, flags []) := by decide

theorem test_lsra :
    (fun t : State => (t.a, t.p))
      (run [0x4A#8] 0xFF#8 0x00#8 0x00#8 [] []) =
      (0x7F#8, flags ['C']) := by decide

theorem test_rol :
    (fun t : State => (t.peek 0x0010#16, t.p))
      (run [0x26#8, 0x10#8] 0x00#8 0x00#8 0x00#8 ['C'] [(0x0010#16, 0x80#8)]) =
      (0x01#8, flags ['C']) := by decide

theorem test_rola :
    (fun t : State => (t.a, t.p))
      (run [0x2A#8] 0x7F#8 0x00#8 0x00#8 ['C'] []) =
      (0xFF#8, flags ['N']) := by decide

theorem test_ror :
    (fun t : State => (t.peek 0x0010#16, t.p))
      (run [0x66#8, 0x10#8] 0x00#8 0x00#8 0x00#8 ['C'] [(0x0010#16, 0x01#8)]) =
      (0x80#8, flags ['N', 'C']) := by decide

theorem test_rora :
    (fun t : State => (t.a, t.p))
      (run [0x6A#8] 0xFE#8 0x00#8 0x00#8 [] []) =
      (0x7F#8, flags []) := by decide

theorem test_inc :
    (fun t : State => (t.peek 0x0010#16, t.p))
      (run [0xE6#8, 0x10#8] 0x00#8 0x00#8 0x00#8 ['C'] [(0x0010#16, 0xFF#8)]) =
      (0x00#8, flags ['Z', 'C']) := by decide

theorem test_dec :
    (fun t : State => (t.peek 0x0010#16, t.p))
      (run [0xC6#8, 0x10#8] 0x00#8 0x00#8 0x00#8 [] [(0x0010#16, 0x00#8)]) =
      (0xFF#8, flags ['N']) := by decide

theorem test_ina :
    (fun t : State => (t.a, t.p))
      (run [0x1A#8] 0x7F#8 0x00#8 0x00#8 [] []) =
      (0x80#8, flags ['N']) := by decide

theorem test_dea :
    (fun t : State => (t.a, t.p))
      (run [0x3A#8] 0x00#8 0x00#8 0x00#8 [] []) =
      (0xFF#8, flags ['N']) := by decide

theorem test_inx :
    (fun t : State => (t.x, t.p))
      (run [0xE8#8] 0x00#8 0xFF#8 0x00#8 [] []) =
      (0x00#8, flags ['Z']) := by decide

theorem test_iny :
    (fun t : State => (t.y, t.p))
      (run [0xC8#8] 0x00#8 0x00#8 0x7F#8 [] []) =
      (0x80#8, flags ['N']) := by decide

theorem test_dex :
    (fun t : State => (t.x, t.p))
      (run [0xCA#8] 0x00#8 0x00#8 0x00#8 [] []) =
      (0xFF#8, flags ['N']) := by decide

theorem test_dey :
    (fun t : State => (t.y, t.p))
      (run [0x88#8] 0x00#8 0x00#8 0x01#8 [] []) =
      (0x00#8, flags ['Z']) := by decide

/-! Branches, jumps, calls (2.6). -/

theorem test_bne_self :
    (run [0xD0#8, 0xFE#8] 0x00#8 0x00#8 0x00#8 [] []).pc = 0x0600#16 := by decide

theorem test_bne_not_taken :
    (run [0xD0#8, 0xFE#8] 0x00#8 0x00#8 0x00#8 ['Z'] []).pc = 0x0602#16 := by decide

theorem test_bne_forward :
    (after (code { start with pc := 0x06F0#16 } [0xD0#8, 0x7F#8])).pc = 0x0771#16 := by decide

theorem test_bcs :
    (run [0xB0#8, 0x05#8] 0x00#8 0x00#8 0x00#8 ['C'] []).pc = 0x0607#16 := by decide

theorem test_bcc :
    (run [0x90#8, 0x05#8] 0x00#8 0x00#8 0x00#8 ['C'] []).pc = 0x0602#16 := by decide

theorem test_beq :
    (run [0xF0#8, 0x02#8] 0x00#8 0x00#8 0x00#8 ['Z'] []).pc = 0x0604#16 := by decide

theorem test_bmi :
    (run [0x30#8, 0x02#8] 0x00#8 0x00#8 0x00#8 [] []).pc = 0x0602#16 := by decide

theorem test_bpl :
    (run [0x10#8, 0x02#8] 0x00#8 0x00#8 0x00#8 [] []).pc = 0x0604#16 := by decide

theorem test_bvc :
    (run [0x50#8, 0x02#8] 0x00#8 0x00#8 0x00#8 ['V'] []).pc = 0x0602#16 := by decide

theorem test_bvs :
    (run [0x70#8, 0x02#8] 0x00#8 0x00#8 0x00#8 ['V'] []).pc = 0x0604#16 := by decide

theorem test_bra_wraps :
    (after (code { start with pc := 0xFFFE#16 } [0x80#8, 0x10#8])).pc = 0x0010#16 := by decide

theorem test_jmp :
    (run [0x4C#8, 0x34#8, 0x12#8] 0x00#8 0x00#8 0x00#8 [] []).pc = 0x1234#16 := by decide

theorem test_jmp_ind_next_page :
    (run [0x6C#8, 0xFF#8, 0x02#8] 0x00#8 0x00#8 0x00#8 [] [(0x02FF#16, 0x34#8), (0x0300#16, 0x12#8), (0x0200#16, 0x99#8)]).pc = 0x1234#16 := by decide

theorem test_jmp_iax :
    (run [0x7C#8, 0x00#8, 0x03#8] 0x00#8 0x04#8 0x00#8 [] [(0x0305#16, 0x08#8)]).pc = 0x0800#16 := by decide

theorem test_jsr :
    (fun t : State => (t.pc, t.sp, t.peek 0x01FF#16, t.peek 0x01FE#16))
      (run [0x20#8, 0x34#8, 0x12#8] 0x00#8 0x00#8 0x00#8 [] []) =
      (0x1234#16, 0xFD#8, 0x06#8, 0x02#8) := by decide

theorem test_rts :
    (fun t : State => (t.pc, t.sp))
      (after (code (put { start with pc := 0x1234#16, sp := 0xFD#8 } [(0x01FE#16, 0x02#8), (0x01FF#16, 0x06#8)]) [0x60#8])) =
      (0x0603#16, 0xFF#8) := by decide

/-! Stack, flags, BRK, RTI (2.7). -/

theorem test_pha_wraps :
    (fun t : State => (t.peek 0x0100#16, t.sp))
      (after (code { start with a := 0xAA#8, sp := 0x00#8 } [0x48#8])) =
      (0xAA#8, 0xFF#8) := by decide

theorem test_pla :
    (fun t : State => (t.a, t.sp, t.p))
      (after (code (put start [(0x0100#16, 0x80#8)]) [0x68#8])) =
      (0x80#8, 0x00#8, flags ['N']) := by decide

theorem test_php :
    (fun t : State => (t.peek 0x01FF#16, t.sp, t.p))
      (run [0x08#8] 0x00#8 0x00#8 0x00#8 ['I', 'Z', 'C'] []) =
      (0x37#8, 0xFE#8, flags ['I', 'Z', 'C']) := by decide

theorem test_plp :
    (fun t : State => (t.p, t.sp))
      (after (code (put { start with sp := 0xFE#8 } [(0x01FF#16, 0xC3#8)]) [0x28#8])) =
      (flags ['N', 'V', 'Z', 'C'], 0xFF#8) := by decide

theorem test_phx :
    (fun t : State => (t.peek 0x01FF#16, t.sp))
      (run [0xDA#8] 0x00#8 0x12#8 0x00#8 [] []) =
      (0x12#8, 0xFE#8) := by decide

theorem test_phy :
    (fun t : State => (t.peek 0x01FF#16, t.sp))
      (run [0x5A#8] 0x00#8 0x00#8 0x34#8 [] []) =
      (0x34#8, 0xFE#8) := by decide

theorem test_plx :
    (fun t : State => (t.x, t.sp, t.p))
      (after (code { start with sp := 0xFD#8, x := 0x01#8 } [0xFA#8])) =
      (0x00#8, 0xFE#8, flags ['Z']) := by decide

theorem test_ply :
    (fun t : State => (t.y, t.sp, t.p))
      (after (code (put { start with sp := 0xFE#8 } [(0x01FF#16, 0x80#8)]) [0x7A#8])) =
      (0x80#8, 0xFF#8, flags ['N']) := by decide

theorem test_clc :
    (run [0x18#8] 0x00#8 0x00#8 0x00#8 ['N', 'V', 'D', 'I', 'Z', 'C'] []).p = flags ['N', 'V', 'D', 'I', 'Z'] := by decide

theorem test_sec :
    (run [0x38#8] 0x00#8 0x00#8 0x00#8 [] []).p = flags ['C'] := by decide

theorem test_cld :
    (run [0xD8#8] 0x00#8 0x00#8 0x00#8 ['N', 'V', 'D', 'I', 'Z', 'C'] []).p = flags ['N', 'V', 'I', 'Z', 'C'] := by decide

theorem test_sed :
    (run [0xF8#8] 0x00#8 0x00#8 0x00#8 [] []).p = flags ['D'] := by decide

theorem test_cli :
    (run [0x58#8] 0x00#8 0x00#8 0x00#8 ['N', 'V', 'D', 'I', 'Z', 'C'] []).p = flags ['N', 'V', 'D', 'Z', 'C'] := by decide

theorem test_sei :
    (run [0x78#8] 0x00#8 0x00#8 0x00#8 [] []).p = flags ['I'] := by decide

theorem test_clv :
    (run [0xB8#8] 0x00#8 0x00#8 0x00#8 ['N', 'V', 'D', 'I', 'Z', 'C'] []).p = flags ['N', 'D', 'I', 'Z', 'C'] := by decide

theorem test_nop :
    (fun t : State => (t.p, t.pc, t.a))
      (run [0xEA#8] 0x07#8 0x00#8 0x00#8 ['N', 'C'] []) =
      (flags ['N', 'C'], 0x0601#16, 0x07#8) := by decide

theorem test_brk :
    (fun t : State => (t.peek 0x01FF#16, t.peek 0x01FE#16, t.peek 0x01FD#16, t.sp, t.p, t.pc))
      (run [0x00#8] 0x00#8 0x00#8 0x00#8 ['C'] [(0xFFFF#16, 0x07#8)]) =
      (0x06#8, 0x02#8, 0x31#8, 0xFC#8, flags ['I', 'C'], 0x0700#16) := by decide

theorem test_brk_decimal :
    (fun t : State => (t.peek 0x01FD#16, t.p))
      (run [0x00#8] 0x00#8 0x00#8 0x00#8 ['D', 'C'] [(0xFFFF#16, 0x07#8)]) =
      (0x39#8, flags ['I', 'C']) := by decide

theorem test_rti :
    (fun t : State => (t.p, t.pc, t.sp))
      (after (code (put { start with pc := 0x0700#16, sp := 0xFC#8, p := flags ['I', 'C'] } [(0x01FD#16, 0x31#8), (0x01FE#16, 0x02#8), (0x01FF#16, 0x06#8)]) [0x40#8])) =
      (flags ['C'], 0x0602#16, 0xFF#8) := by decide

/-! Interrupt entry (2.8). -/

/-- A boundary at 0610 with vectors 0700 (IRQ) and 0900 (NMI) and a NOP at PC. -/
def atBoundary (irq nmi i : Bool) : State :=
  put { start with pc := 0x0610#16, extIrq := irq, nmiPending := nmi, p := { start.p with i := i } }
    [(0xFFFF#16, 0x07#8), (0xFFFB#16, 0x09#8), (0x0610#16, 0xEA#8)]

theorem test_irq_entry :
    (fun t : State => (t.peek 0x01FF#16, t.peek 0x01FE#16, t.peek 0x01FD#16, t.sp, t.p, t.pc))
      (after (atBoundary true false false)) =
      (0x06#8, 0x10#8, 0x20#8, 0xFC#8, flags ['I'], 0x0700#16) := by decide

theorem test_irq_masked :
    (fun t : State => (t.pc, t.sp))
      (after (atBoundary true false true)) =
      (0x0611#16, 0xFF#8) := by decide

theorem test_nmi_entry :
    (fun t : State => (t.peek 0x01FD#16, t.sp, t.pc))
      (after (atBoundary false true true)) =
      (0x24#8, 0xFC#8, 0x0900#16) := by decide

theorem test_nmi_before_irq :
    (fun t : State => (t.pc, t.p))
      (after (atBoundary true true false)) =
      (0x0900#16, flags ['I']) := by decide

theorem test_nmi_is_cleared : (after (atBoundary true true false)).nmiPending = false := by decide

theorem test_undocumented_opcode_is_refused :
    step (code start [0x02#8]) = .refused (.undocumentedOpcode 0x02#8) := rfl

theorem test_rmw_on_the_pia_is_refused :
    step (code start [0xEE#8, 0x00#8, 0x80#8]) = .refused (.deviceUnsafe 0x8000#16) := rfl

/-! The PIA (2.8, 1.6): base 8000, default wiring. -/

/-- `start` with control register A (B) holding `cr`, CA1 high. -/
def piaA (cr : Byte) : State := { start with
  pia := { start.pia with a := { start.pia.a with cr := cr, c1 := .high } } }

theorem test_pia_port_setup :
    (fun t : State => (t.pia.a.ddr, t.pia.a.cr, t.pia.a.outReg, (t.piaRead .dataA).1))
      ((((start.piaWrite .controlA 0x00#8).piaWrite .dataA 0xFF#8).piaWrite .controlA 0x04#8).piaWrite
        .dataA 0xA5#8) = (0xFF#8, 0x04#8, 0xA5#8, 0xA5#8) := by decide

theorem test_pia_negative_edge :
    (fun t : State => (t.pia.a.cr, t.pia.a.irqLow, (t.piaRead .controlA).1, (t.piaRead .dataA).2.pia.a.cr))
      (applyEnv (.c1 .a .low) (piaA 0x05#8)) = (0x85#8, true, 0x85#8, 0x05#8) := by decide

theorem test_pia_enable_after_edge :
    (fun t : State => (t.pia.a.cr, t.pia.a.irqLow, (t.piaWrite .controlA 0x05#8).pia.a.cr,
        (t.piaWrite .controlA 0x05#8).pia.a.irqLow))
      (applyEnv (.c1 .a .low) (piaA 0x04#8)) = (0x84#8, false, 0x85#8, true) := by decide

theorem test_pia_wrong_edge : (applyEnv (.c1 .a .low) (piaA 0x07#8)).pia.a.cr = 0x07#8 := by decide

theorem test_pia_control_write_masks : (start.piaWrite .controlA 0xFF#8).pia.a.cr = 0x3F#8 := by
  decide

theorem test_pia_pulse :
    (fun t : State => (t.pinEvents, t.pia.b.c2Out))
      ({ start with pia := { start.pia with b := { start.pia.b with cr := 0x2C#8 } } }.piaWrite .dataB 0x01#8) =
      ([⟨.b, .low⟩, ⟨.b, .high⟩], .high) := by decide

theorem test_pia_handshake :
    (fun t : State => (t.pia.a.c2Out, (applyEnv (.c1 .a .low) t).pia.a.c2Out))
      ((piaA 0x24#8).piaRead .dataA).2 = (.low, .high) := by decide

theorem test_pia_manual :
    ((start.piaWrite .controlA 0x34#8).pia.a.c2Out,
      ((start.piaWrite .controlA 0x34#8).piaWrite .controlA 0x3C#8).pia.a.c2Out) = (.low, .high) := by
  decide

/-- The truth table of 95_test_vectors.md 1.6, bits 7, 6, 3, 0 and whether IRQA is low. -/
theorem test_pia_irq_table :
    [0x09, 0x81, 0x80, 0x48, 0x41, 0xC0].map
      (fun n => PiaSection.irqLow { PiaSection.reset with cr := BitVec.ofNat 8 n }) =
      [false, true, false, true, false, false] := by decide

theorem test_pia_store_instruction :
    (after (code { start with a := 0x07#8 } [0x8D#8, 0x01#8, 0x80#8])).pia.a.cr = 0x07#8 := by decide

/-! Reset (70_reset_and_hazards.md R350), the agenda (R370), cycle counts (R366), spelling (30_encoding.md
R87, R88). -/

theorem test_reset_sequence :
    (fun t : State => (t.p.i, t.p.d, t.nmiPending, t.pc, t.resetPending))
      (after (put { start with resetPending := true, nmiPending := true } [(0xFFFD#16, 0x06#8)])) =
      (true, false, false, 0x0600#16, false) := by decide

theorem test_agenda_dma_moves_first :
    (fun t : State => (t.peek 0x0200#16, t.pc, t.agenda))
      (after { start with agenda := [.dma (.write 0x0200#16 0x55#8), .cpu] }) =
      (0x55#8, 0x0600#16, [.cpu]) := by decide

/-- 70_reset_and_hazards.md R371: NOP, then BRA to itself at END_PC; the run ends at the first boundary there. -/
theorem test_end_of_run :
    (endState 0x0601#16 3 (code start [0xEA#8, 0x80#8, 0xFE#8])).map (fun t => t.pc) = some 0x0601#16 ∧
    (endState 0x0602#16 3 (code start [0xEA#8, 0x80#8, 0xFE#8])).map (fun t => t.pc) = none := by decide

/-- R371: a change that raises an IRQ at the boundary comes first, so that the run does not end there. -/
theorem test_end_of_run_waits_for_the_boundary :
    ¬ State.endedAt 0x0600#16 { start with agenda := [.env (.extIrq true)] } ∧
    ¬ State.endedAt 0x0600#16 (after { start with agenda := [.env (.extIrq true)] }) ∧
    State.endedAt 0x0600#16 { start with agenda := [.cpu] } := by decide

theorem test_timing :
    Timing.printedCycles (.ldaImm 0#8) = some 2 ∧ Timing.printedCycles (.ldaIzx 0#8) = some 6 ∧
    Timing.printedCycles .brk = some 7 ∧ Timing.printedCycles (.bra 0#8) = none := by decide

theorem test_spelling :
    Assembler.byteOperand .imm 0x80#8 0#16 = "#80H" ∧ Assembler.byteOperand .izy 0x20#8 0#16 = "[20H],Y" ∧
    Assembler.byteOperand .rel 0xFE#8 0x0602#16 = "0600H" ∧
    Assembler.wordOperand .abs 0x0200#16 = ">0200H" := by decide

theorem test_directives :
    Assembler.Directive.emit (.word [0x1234#16]) = [some 0x34#8, some 0x12#8] ∧
    Assembler.Directive.emit (.rmb [0x0002#16]) = [none, none] := by decide

/-! Witnesses: for each statement with hypotheses, states and operands that meet them, clause by clause. -/

/-- RAM 0000 to 7FFF, nothing 9000 to BFFF, ROM from C000, the PIA at 8000. -/
def mixed : Platform := { Platform.standard with memmap := [⟨0, 0x8000, .ram⟩, ⟨0xC000, 0x4000, .rom⟩] }

/-- A state in which every addressing mode with an operand of FF or 7F00 lands next to, not on, the PIA. -/
def near : State := put { start with x := 0xFF#8, y := 0xFF#8, a := 0x42#8 }
  [(0x0000#16, 0x7F#8), (0x00FF#16, 0x00#8), (0x00FE#16, 0x00#8)]

/-- The next three pushes go to RAM and memory holds the vectors, at the two ends of page 1. -/
def lowStack : State := { start with sp := 0x00#8 }

/-- `OffPia` checked address by address. -/
theorem offPia_of_all {s : State} {as : List Word} (h : as.all (fun a => !s.platform.isPia a) = true) :
    OffPia s as := by
  intro a ha
  simpa using List.all_eq_true.1 h a ha

theorem not_offPia_of_any {s : State} {as : List Word} (h : as.any s.platform.isPia = true) :
    ¬ OffPia s as := by
  intro k
  obtain ⟨a, ha, hp⟩ := List.any_eq_true.1 h
  rw [k a ha] at hp
  cases hp

theorem witness_DecodeAcceptsOnlyEncodings :
    decode [0x8D#8, 0xFF#8, 0x7F#8, 0x11#8] = .ok (.staAbs 0x7FFF#16, [0x11#8]) := rfl

theorem witness_OpcodeMapIsThePrintedMatrix :
    printedMap.getD 0x00 none = some ("BRK", .imp) ∧ printedMap.getD 0xFE none = some ("INC", .abx) ∧
    printedMap.getD 0x02 none = none ∧ printedMap.getD 0xFF none = none := by decide

theorem witness_UndocumentedOpcodesAreRefused :
    (code start [0x02#8]).platform.isPia (code start [0x02#8]).pc = false ∧
    (readAt (code start [0x02#8]).pc (code start [0x02#8])).1 ∈ undocumentedOpcodes ∧
    (readAt (code start [0xFF#8]).pc (code start [0xFF#8])).1 ∈ undocumentedOpcodes := by decide

/-- STA 0200H at FFFE: its last byte is at 0000. -/
def atTop : State := code { start with pc := 0xFFFE#16 } [0x8D#8, 0x00#8, 0x02#8]

theorem witness_StepRunsDecodedInstruction :
    CpuReady atTop ∧ NoDma atTop ∧ atTop.clearTrace.selection = .instruction ∧
    (∀ k < (Instr.staAbs 0x0200#16).length, IsMemory atTop (atTop.pc + BitVec.ofNat 16 k)) ∧
    decode [atTop.peek atTop.pc, atTop.peek (atTop.pc + 1#16), atTop.peek (atTop.pc + 2#16)] =
      .ok (.staAbs 0x0200#16, []) := ⟨by decide, by decide, by decide, by decide, rfl⟩

theorem witness_BoundaryTakesNmiThenIrqThenInstruction :
    (CpuReady (atBoundary true true false) ∧ NoSlack (atBoundary true true false) ∧
      (atBoundary true true false).nmiPending = true) ∧
    (CpuReady (atBoundary true false false) ∧ NoSlack (atBoundary true false false) ∧
      (atBoundary true false false).nmiPending = false ∧
      (atBoundary true false false).irqAsserted = true ∧ (atBoundary true false false).p.i = false) ∧
    (CpuReady (atBoundary true false true) ∧ NoSlack (atBoundary true false true) ∧
      (atBoundary true false true).nmiPending = false ∧ (atBoundary true false true).p.i = true) ∧
    (CpuReady (atBoundary false false false) ∧ NoSlack (atBoundary false false false) ∧
      (atBoundary false false false).irqAsserted = false) := by decide

theorem witness_TrapEntryPushesPcAndStatus :
    OffPia lowStack [stackAddr lowStack.sp, stackAddr (lowStack.sp - 1#8), stackAddr (lowStack.sp - 2#8),
      0xFFFA#16, 0xFFFA#16 + 1#16] ∧
    NoDma lowStack ∧ StackRam lowStack ∧ VectorMemory lowStack 0xFFFA#16 ∧
    StackRam start ∧ VectorMemory start 0xFFFE#16 :=
  ⟨offPia_of_all rfl, by decide, by decide, by decide, by decide, by decide⟩

theorem witness_BrkEntersTheSharedVector :
    OffPia lowStack [stackAddr lowStack.sp, stackAddr (lowStack.sp - 1#8), stackAddr (lowStack.sp - 2#8),
      0xFFFE#16, 0xFFFF#16] ∧
    NoDma lowStack ∧ StackRam lowStack ∧ VectorMemory lowStack 0xFFFE#16 :=
  ⟨offPia_of_all rfl, by decide, by decide, by decide⟩

theorem witness_RtiRestoresStatusAndPc :
    OffPia start [stackAddr (start.sp + 1#8), stackAddr (start.sp + 2#8), stackAddr (start.sp + 3#8)] ∧
    NoDma start ∧ IsMemory start (stackAddr (start.sp + 1#8)) ∧
    IsMemory start (stackAddr (start.sp + 2#8)) ∧ IsMemory start (stackAddr (start.sp + 3#8)) :=
  ⟨offPia_of_all rfl, by decide, by decide, by decide, by decide⟩

theorem witness_RtiUndoesTrapEntry :
    NoDma lowStack ∧ StackRam lowStack ∧ VectorMemory lowStack 0xFFFA#16 ∧
    StackRam start ∧ VectorMemory start 0xFFFE#16 := by decide

/-- RES has risen and the reset sequence is due. -/
def risen : State := { start with resetPending := true, nmiPending := true }

theorem witness_ResetSequenceSetsIAndLoadsVector :
    risen.agenda = [] ∧ risen.resLine = .high ∧ risen.resetPending = true ∧
    OffPia risen [0xFFFC#16, 0xFFFD#16] ∧ NoDma risen ∧ VectorMemory risen 0xFFFC#16 :=
  ⟨by decide, by decide, by decide, offPia_of_all rfl, by decide, by decide⟩

theorem witness_ResHoldsTheCpuAndItsRiseStartsReset :
    State.agenda { start with resLine := .low } = [] ∧
    State.resLine { start with resLine := .low } = .low ∧
    start.platform.piaResTied = true := by decide

/-- RES falls during a JSR. -/
def tornDue : State := { code start [0x20#8, 0x00#8, 0x07#8] with agenda := [.cpuTorn] }

theorem witness_ResHoldsTheCpuAndItsRiseStartsReset_torn :
    tornDue.agenda = [.cpuTorn] ∧ tornDue.resLine = .high ∧
    ∃ u, cpuStep { tornDue.clearTrace with agenda := [] } = .next u := ⟨rfl, rfl, _, rfl⟩

/-- The zero page and absolute modes reach the PIA; every other mode is next to it. -/
theorem witness_reads :
    OffPia near ((Source.imm 0xFF#8).deviceTouched near) ∧
    OffPia near ((Source.mem (.zp 0xFF#8)).deviceTouched near) ∧
    OffPia near ((Source.mem (.zpx 0xFF#8)).deviceTouched near) ∧
    OffPia near ((Source.mem (.zpy 0xFF#8)).deviceTouched near) ∧
    OffPia near ((Source.mem (.abs 0x8000#16)).deviceTouched near) ∧
    OffPia near ((Source.mem (.abx 0x7F00#16)).deviceTouched near) ∧
    OffPia near ((Source.mem (.aby 0x7F05#16)).deviceTouched near) ∧
    OffPia near ((Source.mem (.izx 0x00#8)).deviceTouched near) ∧
    OffPia near ((Source.mem (.izy 0xFF#8)).deviceTouched near) ∧
    OffPia near ((Source.mem (.izp 0xFF#8)).deviceTouched near) :=
  ⟨offPia_of_all rfl, offPia_of_all rfl, offPia_of_all rfl, offPia_of_all rfl, offPia_of_all
    rfl, offPia_of_all rfl, offPia_of_all rfl, offPia_of_all rfl, offPia_of_all rfl,
    offPia_of_all rfl⟩

theorem witness_LoadsSetRegisterAndNZ :
    OffPia near ((Source.imm 0x00#8).deviceTouched near) ∧
    OffPia near ((Source.mem (.zpy 0xFF#8)).deviceTouched near) ∧
    OffPia near ((Source.mem (.abs 0x8000#16)).deviceTouched near) ∧
    OffPia near ((Source.mem (.abx 0x7F00#16)).deviceTouched near) :=
  ⟨offPia_of_all rfl, offPia_of_all rfl, offPia_of_all rfl, offPia_of_all rfl⟩

theorem witness_StoresWriteOneByte :
    OffPia near ((MemMode.zp 0xFF#8).deviceTouched near) ∧
    OffPia near ((MemMode.zpx 0xFF#8).deviceTouched near) ∧
    OffPia near ((MemMode.zpy 0xFF#8).deviceTouched near) ∧
    OffPia near ((MemMode.abs 0x8001#16).deviceTouched near) ∧
    OffPia near ((MemMode.abx 0x7F00#16).deviceTouched near) ∧
    OffPia near ((MemMode.aby 0x7F05#16).deviceTouched near) ∧
    OffPia near ((MemMode.izx 0x00#8).deviceTouched near) ∧
    OffPia near ((MemMode.izy 0xFF#8).deviceTouched near) ∧
    OffPia near ((MemMode.izp 0xFF#8).deviceTouched near) :=
  ⟨offPia_of_all rfl, offPia_of_all rfl, offPia_of_all rfl, offPia_of_all rfl, offPia_of_all
    rfl, offPia_of_all rfl, offPia_of_all rfl, offPia_of_all rfl, offPia_of_all rfl⟩

theorem witness_AdcAddsInBinary :
    near.p.d = false ∧ OffPia near ((Source.mem (.abs 0x8000#16)).deviceTouched near) ∧
    OffPia near ((Source.mem (.izy 0xFF#8)).deviceTouched near) :=
  ⟨by decide, offPia_of_all rfl, offPia_of_all rfl⟩

theorem witness_SbcSubtractsInBinary :
    near.p.d = false ∧ OffPia near ((Source.imm 0xFF#8).deviceTouched near) ∧
    OffPia near ((Source.mem (.izx 0x00#8)).deviceTouched near) :=
  ⟨by decide, offPia_of_all rfl, offPia_of_all rfl⟩

/-- `near` in decimal mode with 99 at 00FE, a BCD byte, and 9A at 00FD, no BCD byte. -/
def decimal : State := put { near with p := flags ['D'], a := 0x99#8 }
  [(0x00FE#16, 0x99#8), (0x00FD#16, 0x9A#8)]

theorem witness_DecimalAdcAndSbcGiveDigits :
    decimal.p.d = true ∧ IsBcd decimal.a ∧ IsBcd (Source.load (.imm 0x00#8) decimal).1 ∧
    IsBcd (Source.load (.mem (.zp 0xFE#8)) decimal).1 ∧
    OffPia decimal ((Source.mem (.zp 0xFE#8)).deviceTouched decimal) ∧
    OffPia decimal ((Source.mem (.abx 0xFFFF#16)).deviceTouched decimal) :=
  ⟨by decide, by decide, by decide, by decide, offPia_of_all rfl, offPia_of_all rfl⟩

theorem witness_NonDecimalDigitsLeaveOnlyTheResultOpen :
    decimal.p.d = true ∧ ¬ (IsBcd decimal.a ∧ IsBcd (Source.load (.imm 0x0A#8) decimal).1) ∧
    ¬ (IsBcd decimal.a ∧ IsBcd (Source.load (.mem (.zp 0xFD#8)) decimal).1) ∧
    OffPia decimal ((Source.mem (.zp 0xFD#8)).deviceTouched decimal) :=
  ⟨by decide, by decide, by decide, offPia_of_all rfl⟩

theorem witness_LogicCombinesAccumulatorAndOperand :
    OffPia near ((Source.imm 0xFF#8).deviceTouched near) ∧
    OffPia near ((Source.mem (.izp 0xFF#8)).deviceTouched near) :=
  ⟨offPia_of_all rfl, offPia_of_all rfl⟩

theorem witness_ComparesSetNZC :
    OffPia near ((Source.imm 0x42#8).deviceTouched near) ∧
    OffPia near ((Source.mem (.aby 0x7F05#16)).deviceTouched near) :=
  ⟨offPia_of_all rfl, offPia_of_all rfl⟩

theorem witness_BitTestsOperandBits :
    OffPia near ((Source.mem (.zp 0xFF#8)).deviceTouched near) ∧
    OffPia near ((Source.mem (.abs 0x8000#16)).deviceTouched near) :=
  ⟨offPia_of_all rfl, offPia_of_all rfl⟩

theorem witness_TsbTrbSetAndResetBits :
    OffPia near ((MemMode.zp 0x00#8).touched near) ∧ OffPia near ((MemMode.abs 0x7FFF#16).touched near) ∧
    OffPia near ((MemMode.abs 0x8004#16).touched near) :=
  ⟨offPia_of_all rfl, offPia_of_all rfl, offPia_of_all rfl⟩

theorem witness_MemoryShiftsMoveOneBit :
    OffPia near ((MemMode.zp 0xFF#8).touched near) ∧ OffPia near ((MemMode.zpx 0xFF#8).touched near) ∧
    OffPia near ((MemMode.abs 0x7FFF#16).touched near) ∧
    OffPia near ((MemMode.abx 0x7F00#16).touched near) :=
  ⟨offPia_of_all rfl, offPia_of_all rfl, offPia_of_all rfl, offPia_of_all rfl⟩

theorem witness_MemoryIncrementsWrap :
    OffPia near ((MemMode.zp 0xFF#8).touched near) ∧ OffPia near ((MemMode.zpx 0xFF#8).touched near) ∧
    OffPia near ((MemMode.abs 0x8004#16).touched near) ∧
    OffPia near ((MemMode.abx 0x7F05#16).touched near) :=
  ⟨offPia_of_all rfl, offPia_of_all rfl, offPia_of_all rfl, offPia_of_all rfl⟩

theorem witness_BranchesGoToNextPlusOffset :
    start.p.c = false ∧ start.p.z = false ∧ start.p.n = false ∧ start.p.v = false ∧
    (flags ['N', 'V', 'Z', 'C']).c = true ∧ (flags ['N', 'V', 'Z', 'C']).z = true ∧
    (flags ['N', 'V', 'Z', 'C']).n = true ∧ (flags ['N', 'V', 'Z', 'C']).v = true := by decide

theorem witness_JumpsLoadPc :
    OffPia near [0x7FFE#16, 0x7FFE#16 + 1#16] ∧ NoDma near ∧ IsMemory near 0xFFFF#16 ∧
    IsMemory near (0xFFFF#16 + 1#16) ∧
    OffPia near [BitVec.ofNat 16 (0xFF01 + near.x.toNat), BitVec.ofNat 16 (0xFF01 + near.x.toNat) + 1#16] ∧
    IsMemory near (BitVec.ofNat 16 (0xFF01 + near.x.toNat)) ∧
    IsMemory near (BitVec.ofNat 16 (0xFF01 + near.x.toNat) + 1#16) :=
  ⟨offPia_of_all rfl, by decide, by decide, by decide, offPia_of_all rfl, by decide, by
    decide⟩

theorem witness_JsrPushesReturnAddress :
    OffPia lowStack [stackAddr lowStack.sp, stackAddr (lowStack.sp - 1#8)] ∧ NoDma lowStack ∧
    IsRam lowStack (stackAddr lowStack.sp) ∧ IsRam lowStack (stackAddr (lowStack.sp - 1#8)) :=
  ⟨offPia_of_all rfl, by decide, by decide, by decide⟩

theorem witness_RtsReturnsPastPulledAddress :
    OffPia start [stackAddr (start.sp + 1#8), stackAddr (start.sp + 2#8)] ∧ NoDma start ∧
    IsMemory start (stackAddr (start.sp + 1#8)) ∧ IsMemory start (stackAddr (start.sp + 2#8)) :=
  ⟨offPia_of_all rfl, by decide, by decide, by decide⟩

theorem witness_RtsReturnsAfterJsr :
    NoDma lowStack ∧ IsRam lowStack (stackAddr lowStack.sp) ∧
    IsRam lowStack (stackAddr (lowStack.sp - 1#8)) := by decide

theorem witness_PushAndPullUseThePageOneStack :
    NoDma lowStack ∧ IsRam lowStack (stackAddr lowStack.sp) ∧ IsRam start (stackAddr start.sp) := by decide

theorem witness_PushesStoreRegisters :
    OffPia lowStack [stackAddr lowStack.sp] ∧ OffPia start [stackAddr start.sp] :=
  ⟨offPia_of_all rfl, offPia_of_all rfl⟩

theorem witness_PullsLoadRegisters :
    OffPia lowStack [stackAddr (lowStack.sp + 1#8)] ∧ OffPia start [stackAddr (start.sp + 1#8)] :=
  ⟨offPia_of_all rfl, offPia_of_all rfl⟩

theorem witness_EffectiveAddressesAsStated :
    NoDma near ∧ IsMemory near (BitVec.ofNat 16 ((0x00 + near.x.toNat) % 256)) ∧
    IsMemory near (BitVec.ofNat 16 ((0x00 + near.x.toNat + 1) % 256)) ∧
    IsMemory near (BitVec.ofNat 16 0xFF) ∧ IsMemory near (BitVec.ofNat 16 ((0xFF + 1) % 256)) := by decide

/-- The platform with ROM and nothing. -/
def mixedState : State := { start with platform := mixed }

theorem witness_AccessesFollowTheAddressMap :
    NoDma mixedState ∧ IsMemory mixedState 0xFFFF#16 ∧ IsRam mixedState 0x7FFF#16 ∧
    mixedState.platform.target 0xC000#16 = .rom ∧ mixedState.platform.target 0x8004#16 = .unmapped ∧
    mixedState.platform.target 0xBFFF#16 = .unmapped ∧
    mixedState.platform.target 0x8003#16 = .pia .controlB := by decide

theorem witness_StoreIsSeenByTheNextLoad : NoDma start ∧ IsRam start 0x7FFF#16 ∧ IsRam start 0xFFFF#16 := by
  decide

/-- The DMA agent is about to write one byte. -/
def dmaDue : State := { start with dmaTurns := [[.write 0x0000#16 0x77#8], []] }

theorem witness_DmaActsBeforeTheNextAccess :
    IsRam dmaDue 0x0000#16 ∧ dmaDue.dmaTurns = [.write 0x0000#16 0x77#8] :: [[]] := by decide

/-- STA at 7FFE: its third byte is at 8000, on the PIA. -/
def overPia : State := code { start with pc := 0x7FFE#16 } [0x8D#8]

/-- The PIA somewhere else. -/
def piaAt (base : Word) : State := { start with platform := { start.platform with piaBase := some base } }

theorem witness_ForbiddenDeviceTouchesAreRefused :
    OffPia near (offDeviceAddrs (.staAbx 0x7F00#16) near) ∧
    ¬ OffPia near (offDeviceAddrs (.staAbx 0x7F01#16) near) ∧
    ¬ OffPia near (offDeviceAddrs (.incAbs 0x8003#16) near) ∧
    (Instr.mnemonic (.ldaAbs 0x8000#16) = "LDA" ∧ Instr.format (.ldaAbs 0x8000#16) = .abs) ∧
    (Instr.mnemonic (.sbcZp 0x80#8) = "SBC" ∧ Instr.format (.sbcZp 0x80#8) = .zp) ∧
    State.platform { start with pc := 0x8003#16 } = Platform.standard ∧
    Platform.standard.isPia 0x8003#16 = true ∧
    ¬ OffPia start [stackAddr start.sp, stackAddr (start.sp - 1#8), stackAddr (start.sp - 2#8),
      0x7FFF#16, 0x7FFF#16 + 1#16] ∧
    overPia.platform.isPia overPia.pc = false ∧ opcodeLength (readAt overPia.pc overPia).1 = some 3 ∧
    overPia.platform.isPia (overPia.pc + BitVec.ofNat 16 2) = true ∧
    ¬ OffPia (piaAt 0xFFFC#16) [0xFFFC#16, 0xFFFD#16] ∧
    ¬ OffPia (piaAt 0xFFFD#16) [0xFFFC#16, 0xFFFD#16] :=
  ⟨offPia_of_all rfl, not_offPia_of_any rfl, not_offPia_of_any rfl, by decide, by decide, by
    decide, by decide, not_offPia_of_any rfl, by decide, by decide, by decide, not_offPia_of_any rfl,
    not_offPia_of_any rfl⟩

theorem witness_MemoryChangesOnlyWhereStored :
    NoDma start ∧ 0x0201#16 ∉ storedAddrs (.staAbs 0x0200#16) start ∧
    ∃ t, exec (.staAbs 0x0200#16) start = .next t := ⟨by decide, by decide, _, rfl⟩

theorem witness_RegistersChangeOnlyByTheirInstructions :
    (∃ t, exec .nop start = .next t) ∧ Instr.mnemonic .nop ∉ ["ADC", "LDA", "LDX", "LDY", "TXS"] ∧
    (∃ t, exec (.incZp 0xFF#8) start = .next t) := ⟨⟨_, rfl⟩, by decide, _, rfl⟩

theorem witness_FlagsChangeOnlyByTheirInstructions :
    (∃ t, exec .txs start = .next t) ∧ Instr.mnemonic .txs ∉ ["TAX", "SED", "SEI", "CLV", "PLP", "ADC"] ∧
    (∃ t, exec (.staAbs 0x8000#16) start = .next t) := ⟨⟨_, rfl⟩, by decide, _, rfl⟩

theorem witness_InstructionsLeaveLinesAndDevicesAlone :
    (∃ t, exec (.staAbs 0x7FFF#16) start = .next t) ∧
    deviceAddr (.staAbs 0x7FFF#16) = some 0x7FFF#16 ∧ start.platform.isPia 0x7FFF#16 = false ∧
    Instr.mnemonic (.staAbs 0x7FFF#16) ∉ ["CLI", "SEI", "PLP", "RTI"] :=
  ⟨⟨_, rfl⟩, by decide, by decide, by decide⟩

theorem witness_DefaultWiringSelectsFourAddresses :
    Platform.standard.piaBase = some 0x8000#16 ∧ Platform.standard.rs0Line = 0 ∧
    Platform.standard.rs1Line = 1 ∧ Platform.standard.target 0x8003#16 = .pia .controlB ∧
    Platform.standard.isPia 0x8004#16 = false ∧ Platform.standard.isPia 0x7FFF#16 = false := by decide

theorem witness_PiaWritesReachTheSelectedRegister :
    (piaA 0x04#8).piaInReset = false ∧ crBit (piaA 0x04#8).pia.a 2 = true ∧
    crBit (piaA 0xC0#8).pia.a 6 = true ∧
    (piaA 0x20#8).piaInReset = false ∧ c2Mode (piaA 0x20#8).pia.a.cr = .handshake ∧
    (bit 0x20#8 5 = true ∧ bit 0x20#8 4 = false ∧ bit 0x20#8 3 = false) ∧
    (bit 0x28#8 5 = true ∧ bit 0x28#8 4 = false ∧ bit 0x28#8 3 = true) ∧
    (bit 0x38#8 5 = true ∧ bit 0x38#8 4 = true) ∧ bit 0x1F#8 5 = false := by decide

theorem witness_PortReadsShowPinsAndOutputs :
    crBit (piaA 0x04#8).pia.a 2 = true ∧ crBit (piaA 0xFB#8).pia.a 2 = false ∧
    crBit start.pia.b 2 = false ∧
    crBit (State.pia { start with pia := { start.pia with b := { start.pia.b with cr := 0xC4#8 } } }).b 2 =
      true ∧
    bit start.pia.a.ddr 7 = false ∧ start.platform.paReadback = .oraBit ∧
    bit (start.piaWrite .dataA 0x80#8).pia.a.ddr 7 = true := by decide

/-- CA1 is high and goes low, or CA2 is low and goes high. -/
theorem witness_EdgeDetectorsSetFlagsOnActiveTransitions :
    (piaA 0x24#8).piaInReset = false ∧ crBit (piaA 0x24#8).pia.a 1 = false ∧
    (piaA 0x24#8).pia.a.c1 = .high ∧ crBit (piaA 0x12#8).pia.a 1 = true ∧
    crBit (piaA 0x12#8).pia.a 5 = false ∧ crBit (piaA 0x12#8).pia.a 4 = true ∧
    (piaA 0x12#8).pia.a.c2 = .low := by decide

theorem witness_DataAccessesDriveHandshakeAndPulse :
    (piaA 0x24#8).piaInReset = false ∧ crBit (piaA 0x24#8).pia.a 2 = true ∧
    c2Mode (piaA 0x24#8).pia.a.cr = .handshake ∧ c2Mode (piaA 0x2C#8).pia.a.cr = .pulse ∧
    crBit (piaA 0x2C#8).pia.a 2 = true ∧ crBit (piaA 0x20#8).pia.a 2 = false ∧
    c2Mode (piaA 0x04#8).pia.a.cr = .input ∧ c2Mode (piaA 0x34#8).pia.a.cr = .manualLow ∧
    c2Mode (piaA 0x3C#8).pia.a.cr = .manualHigh ∧ crBit start.pia.b 2 = false ∧
    (let s : State := { start with pia := { start.pia with b := { start.pia.b with cr := 0x24#8 } } }
     s.piaInReset = false ∧ crBit s.pia.b 2 = true ∧ c2Mode s.pia.b.cr = .handshake) ∧
    (let s : State := { start with pia := { start.pia with b := { start.pia.b with cr := 0x2C#8 } } }
     s.piaInReset = false ∧ crBit s.pia.b 2 = true ∧ c2Mode s.pia.b.cr = .pulse) := by decide

theorem witness_InterruptOutputsFollowFlagsAndEnables :
    (piaA 0x80#8).piaInReset = false ∧ (piaA 0x80#8).platform.irqaRoute = .irq ∧
    (piaA 0x80#8).platform.irqbRoute = .irq ∧ (piaA 0x80#8).extIrq = false := by decide

/-- CA1 enabled, high, and about to be driven low. -/
def edgeDue : State := { piaA 0x05#8 with agenda := [.env (.c1 .a .low)] }

theorem witness_Ca1EdgeInterruptsTheCpu :
    edgeDue.agenda = [.env (.c1 .a .low)] ∧ edgeDue.resLine = .high ∧ edgeDue.resetPending = false ∧
    edgeDue.piaInReset = false ∧ NoSlack edgeDue ∧ edgeDue.nmiPending = false ∧
    edgeDue.platform.irqaRoute = .irq ∧ edgeDue.p.i = false ∧ edgeDue.pia.a.c1 = .high ∧
    crBit edgeDue.pia.a 0 = true ∧
    (if crBit edgeDue.pia.a 1 then Level.high = .low ∧ Level.low = .high
      else Level.high = .high ∧ Level.low = .low) ∧
    NoDma edgeDue ∧ StackRam edgeDue ∧ VectorMemory edgeDue 0xFFFE#16 := by decide

theorem witness_EveryStepKeepsTheInvariant :
    State.Inv (code start [0x8D#8, 0x01#8, 0x80#8]) ∧
    ∃ t, step (code start [0x8D#8, 0x01#8, 0x80#8]) = .next t := ⟨by decide, _, rfl⟩

theorem witness_ParametersNeverChange :
    (∃ t, step (code start [0x8D#8, 0x01#8, 0x80#8]) = .next t) ∧ ∃ t, step edgeDue = .next t :=
  ⟨⟨_, rfl⟩, _, rfl⟩

end Sys2Proof.Tests
end

section
/-! SUPPORT. What an instruction writes of the CPU (10_state.md R10 to R24): a footprint of places, one lemma per
effect and per shape of instruction, and from these the footprint of every instruction. -/

namespace Sys2Proof.Machine

/-- One place of the CPU that an instruction can write besides PC: a register, a flag of P, the slack of I. -/
inductive CpuField where
  | a
  | x
  | y
  | sp
  | n
  | v
  | d
  | i
  | z
  | c
  | slackI

/-- `s` and `t` hold the same value at this place. -/
def CpuField.Same : CpuField → State → State → Prop
  | .a, s, t => t.a = s.a
  | .x, s, t => t.x = s.x
  | .y, s, t => t.y = s.y
  | .sp, s, t => t.sp = s.sp
  | .n, s, t => t.p.n = s.p.n
  | .v, s, t => t.p.v = s.p.v
  | .d, s, t => t.p.d = s.p.d
  | .i, s, t => t.p.i = s.p.i
  | .z, s, t => t.p.z = s.p.z
  | .c, s, t => t.p.c = s.p.c
  | .slackI, s, t => t.slackI = s.slackI

/-- Of these places only those in `ws` can differ between `s` and `t`. -/
def ChangesOnly (ws : List CpuField) (s t : State) : Prop := ∀ f, f ∉ ws → f.Same s t

theorem CpuField.Same.trans {f : CpuField} {s t u : State} (h : f.Same s t) (k : f.Same t u) :
    f.Same s u := by
  cases f <;> exact Eq.trans k h

theorem ChangesOnly.trans {ws : List CpuField} {s t u : State} (h : ChangesOnly ws s t)
    (k : ChangesOnly ws t u) : ChangesOnly ws s u :=
  fun f hf => (h f hf).trans (k f hf)

theorem ChangesOnly.mono {ws vs : List CpuField} {s t : State} (h : ChangesOnly ws s t)
    (hs : ws ⊆ vs) : ChangesOnly vs s t :=
  fun f hf => h f fun k => hf (hs k)

/-- A bus access changes none of these places. -/
theorem SameCpu.changesOnly {ws : List CpuField} {s t : State} (h : SameCpu s t) :
    ChangesOnly ws s t := by
  intro f _
  cases f with
  | a => exact h.a
  | x => exact h.x
  | y => exact h.y
  | sp => exact h.sp
  | slackI => exact h.slackI
  | _ => simp only [CpuField.Same, h.p]

/-! The effects on registers and flags. -/

theorem setPc_changesOnly {ws : List CpuField} (s : State) (pc : Word) :
    ChangesOnly ws s { s with pc := pc } := by
  intro f _
  cases f <;> rfl

theorem setSp_changesOnly (s : State) (v : Byte) : ChangesOnly [.sp] s { s with sp := v } := by
  intro f hf
  cases f <;> simp [CpuField.Same] at hf ⊢

theorem loadA_changesOnly (v : Byte) (s : State) : ChangesOnly [.a, .n, .z] s (loadA v s) := by
  intro f hf
  cases f <;> simp [CpuField.Same] at hf ⊢

theorem loadX_changesOnly (v : Byte) (s : State) : ChangesOnly [.x, .n, .z] s (loadX v s) := by
  intro f hf
  cases f <;> simp [CpuField.Same] at hf ⊢

theorem loadY_changesOnly (v : Byte) (s : State) : ChangesOnly [.y, .n, .z] s (loadY v s) := by
  intro f hf
  cases f <;> simp [CpuField.Same] at hf ⊢

theorem noteI_changesOnly (old : Bool) (s : State) :
    ChangesOnly [.slackI] s (State.noteI old s) := by
  unfold State.noteI
  split
  · exact (SameCpu.refl s).changesOnly
  · intro f hf
    cases f <;> simp [CpuField.Same] at hf ⊢

/-- Loading P leaves A, X, Y and S. -/
theorem setFlags_changesOnly (p : Flags) (s : State) :
    ChangesOnly [.n, .v, .d, .i, .z, .c] s { s with p := p } := by
  intro f hf
  cases f <;> simp [CpuField.Same] at hf ⊢

theorem setC_changesOnly (b : Bool) (s : State) :
    ChangesOnly [.c] s { s with p := { s.p with c := b } } := by
  intro f hf
  cases f <;> simp [CpuField.Same] at hf ⊢

theorem setD_changesOnly (b : Bool) (s : State) :
    ChangesOnly [.d] s { s with p := { s.p with d := b } } := by
  intro f hf
  cases f <;> simp [CpuField.Same] at hf ⊢

theorem setV_changesOnly (b : Bool) (s : State) :
    ChangesOnly [.v] s { s with p := { s.p with v := b } } := by
  intro f hf
  cases f <;> simp [CpuField.Same] at hf ⊢

theorem setI_changesOnly (b : Bool) (s : State) :
    ChangesOnly [.i] s { s with p := { s.p with i := b } } := by
  intro f hf
  cases f <;> simp [CpuField.Same] at hf ⊢

theorem setZ_changesOnly (b : Bool) (s : State) :
    ChangesOnly [.z] s { s with p := { s.p with z := b } } := by
  intro f hf
  cases f <;> simp [CpuField.Same] at hf ⊢

theorem setNZ_changesOnly (v : Byte) (s : State) :
    ChangesOnly [.n, .z] s { s with p := Flags.setNZ s.p v } := by
  intro f hf
  cases f <;> simp [CpuField.Same] at hf ⊢

/-- The compares and the shifts write N, Z and C. -/
theorem setNZC_changesOnly (n z c : Bool) (s : State) :
    ChangesOnly [.n, .z, .c] s { s with p := { s.p with n := n, z := z, c := c } } := by
  intro f hf
  cases f <;> simp [CpuField.Same] at hf ⊢

theorem bitTest_changesOnly (m : Byte) (s : State) : ChangesOnly [.n, .v, .z] s (bitTest m s) := by
  intro f hf
  cases f <;> simp [CpuField.Same, bitTest, bitTestFlags] at hf ⊢

theorem cmpA_changesOnly (m : Byte) (s : State) : ChangesOnly [.n, .z, .c] s (cmpA m s) :=
  setNZC_changesOnly _ _ _ s

theorem cmpX_changesOnly (m : Byte) (s : State) : ChangesOnly [.n, .z, .c] s (cmpX m s) :=
  setNZC_changesOnly _ _ _ s

theorem cmpY_changesOnly (m : Byte) (s : State) : ChangesOnly [.n, .z, .c] s (cmpY m s) :=
  setNZC_changesOnly _ _ _ s

/-- CLI and SEI write I and its slack. -/
theorem loadI_changesOnly (old b : Bool) (s : State) :
    ChangesOnly [.i, .slackI] s (State.noteI old { s with p := { s.p with i := b } }) :=
  ((setI_changesOnly b s).mono (by simp)).trans ((noteI_changesOnly old _).mono (by simp))

theorem loadP_changesOnly (v : Byte) (s : State) :
    ChangesOnly [.n, .v, .d, .i, .z, .c, .slackI] s (loadP v s) :=
  ((setFlags_changesOnly _ s).mono (by simp)).trans ((noteI_changesOnly s.p.i _).mono (by simp))

/-- Addition and subtraction write A, N, V, Z and C, in decimal mode too, where their sum leaves D and I. -/
theorem addSub_changesOnly {f : Byte → Byte → Flags → Byte × Flags}
    {g : Byte → Byte → Flags → Bool → Byte × Flags}
    (hf : ∀ a m p, (f a m p).2.d = p.d ∧ (f a m p).2.i = p.i)
    (hg : ∀ a m p b, (g a m p b).2.d = p.d ∧ (g a m p b).2.i = p.i) (m : Byte) (s : State) :
    ChangesOnly [.a, .n, .v, .z, .c] s (addSub f g m s) := by
  unfold addSub
  split
  · intro k hk
    cases k <;> simp [CpuField.Same, hf] at hk ⊢
  · split
    · intro k hk
      cases k <;> simp [CpuField.Same, hg] at hk ⊢
    · intro k hk
      cases k <;> simp [CpuField.Same] at hk ⊢

theorem adc_changesOnly (m : Byte) (s : State) : ChangesOnly [.a, .n, .v, .z, .c] s (adc m s) :=
  addSub_changesOnly (fun _ _ _ => ⟨rfl, rfl⟩) (fun _ _ _ _ => ⟨rfl, rfl⟩) m s

theorem sbc_changesOnly (m : Byte) (s : State) : ChangesOnly [.a, .n, .v, .z, .c] s (sbc m s) :=
  addSub_changesOnly (fun _ _ _ => ⟨rfl, rfl⟩) (fun _ _ _ _ => ⟨rfl, rfl⟩) m s

/-- An operation on A writes A beside the flags it computes. -/
theorem onA_changesOnly {ws : List CpuField} {f : Byte → Flags → Byte × Flags} {s : State}
    (h : ChangesOnly ws s { s with p := (f s.a s.p).2 }) : ChangesOnly (.a :: ws) s (onA f s) := by
  refine (h.mono (List.subset_cons_self _ _)).trans fun k hk => ?_
  cases k <;> simp [CpuField.Same, onA] at hk ⊢

/-! The computations of the read-modify-write instructions. -/

theorem shiftLeft_changesOnly (m : Byte) (s : State) :
    ChangesOnly [.n, .z, .c] s { s with p := (shiftLeft m s.p).2 } :=
  setNZC_changesOnly _ _ _ s

theorem shiftRight_changesOnly (m : Byte) (s : State) :
    ChangesOnly [.n, .z, .c] s { s with p := (shiftRight m s.p).2 } :=
  setNZC_changesOnly _ _ _ s

theorem rotateLeft_changesOnly (m : Byte) (s : State) :
    ChangesOnly [.n, .z, .c] s { s with p := (rotateLeft m s.p).2 } :=
  setNZC_changesOnly _ _ _ s

theorem rotateRight_changesOnly (m : Byte) (s : State) :
    ChangesOnly [.n, .z, .c] s { s with p := (rotateRight m s.p).2 } :=
  setNZC_changesOnly _ _ _ s

theorem increment_changesOnly (m : Byte) (s : State) :
    ChangesOnly [.n, .z] s { s with p := (increment m s.p).2 } :=
  setNZ_changesOnly _ s

theorem decrement_changesOnly (m : Byte) (s : State) :
    ChangesOnly [.n, .z] s { s with p := (decrement m s.p).2 } :=
  setNZ_changesOnly _ s

theorem testSet_changesOnly (a : Byte) (m : Byte) (s : State) :
    ChangesOnly [.z] s { s with p := (testSet a m s.p).2 } :=
  setZ_changesOnly _ s

theorem testReset_changesOnly (a : Byte) (m : Byte) (s : State) :
    ChangesOnly [.z] s { s with p := (testReset a m s.p).2 } :=
  setZ_changesOnly _ s

/-! The stack. -/

theorem push_changesOnly (v : Byte) (s : State) : ChangesOnly [.sp] s (push v s) :=
  (writeAt_sameCpu _ v s).changesOnly.trans (setSp_changesOnly _ _)

theorem pull_changesOnly (s : State) : ChangesOnly [.sp] s (pull s).2 :=
  (setSp_changesOnly s _).trans (readAt_sameCpu _ _).changesOnly

theorem pushWord_changesOnly (w : Word) (s : State) : ChangesOnly [.sp] s (pushWord w s) :=
  (push_changesOnly _ s).trans (push_changesOnly _ _)

theorem pullWord_changesOnly (s : State) : ChangesOnly [.sp] s (pullWord s).2 :=
  (pull_changesOnly s).trans (pull_changesOnly _)

/-- A trap entry pushes, sets I and clears D (60_exceptions.md R270). -/
theorem enterTrap_changesOnly (vec ret : Word) (b : Bool) (s : State) :
    ChangesOnly [.sp, .d, .i] s (enterTrap vec ret b s) := by
  have pushed : ChangesOnly [.sp, .d, .i] s (push (Flags.image s.p b) (pushWord ret s)) :=
    ((pushWord_changesOnly ret s).trans (push_changesOnly _ _)).mono (by simp)
  have masked : ∀ u : State, ChangesOnly [.sp, .d, .i] u
      { u with p := { u.p with i := true, d := false } } := fun u =>
    ((setD_changesOnly false u).mono (by simp)).trans ((setI_changesOnly true _).mono (by simp))
  exact (pushed.trans (masked _)).trans
    ((readWord_sameCpu vec _).changesOnly.trans (setPc_changesOnly _ _))

theorem returnFromTrap_changesOnly (s : State) :
    ChangesOnly [.sp, .n, .v, .d, .i, .z, .c, .slackI] s (returnFromTrap s) := by
  have loaded : ChangesOnly [.sp, .n, .v, .d, .i, .z, .c, .slackI] s
      (State.noteI s.p.i { (pull s).2 with p := Flags.ofByte (pull s).1 }) :=
    (((pull_changesOnly s).mono (by simp)).trans ((setFlags_changesOnly _ _).mono (by simp))).trans
      ((noteI_changesOnly s.p.i _).mono (by simp))
  exact loaded.trans (((pullWord_changesOnly _).mono (by simp)).trans (setPc_changesOnly _ _))

/-! The shapes of the instructions. -/

theorem next_changesOnly {ws : List CpuField} {s t u : State}
    (h : (.next u : Result) = .next t) (hu : ChangesOnly ws s u) : ChangesOnly ws s t := by
  cases h
  exact hu

theorem guarded_changesOnly {ws : List CpuField} {i : Instr} {s t u : State}
    (hx : exec i s = guarded s (offDeviceAddrs i s) u) (h : exec i s = .next t)
    (hu : ChangesOnly ws s u) : ChangesOnly ws s t := by
  cases guarded_next (hx.symm.trans h)
  exact hu

theorem ChangesOnly.advance {ws : List CpuField} {s t : State} (h : ChangesOnly ws s t) (len : Nat) :
    ChangesOnly ws s (t.advance len) :=
  h.trans (setPc_changesOnly t _)

/-- An instruction that reads an operand changes what its effect changes. -/
theorem operand_changesOnly {ws : List CpuField} {o : Source} {e : Byte → State → State} {s : State}
    {len : Nat} (he : ∀ v u, ChangesOnly ws u (e v u)) :
    ChangesOnly ws s ((e (o.load s).1 (o.load s).2).advance len) :=
  ((load_sameCpu o s).changesOnly.trans (he _ _)).advance len

theorem store_changesOnly {ws : List CpuField} {m : MemMode} {v : Byte} {s : State} {len : Nat} :
    ChangesOnly ws s ((writeAt (m.address s).1 v (m.address s).2).advance len) :=
  ((address_sameCpu m s).trans (writeAt_sameCpu _ v _)).changesOnly.advance len

/-- A read-modify-write changes what its computation writes of the flags. -/
theorem modifyAt_changesOnly {ws : List CpuField} {f : Byte → Flags → Byte × Flags}
    (hf : ∀ v u, ChangesOnly ws u { u with p := (f v u.p).2 }) (a : Word) (s : State) :
    ChangesOnly ws s (modifyAt a f s) := by
  have stored : SameCpu
      { (readAt a s).2 with p := (f (readAt a s).1 (readAt a s).2.p).2 } (modifyAt a f s) := by
    have k := writeAt_sameCpu a (f (readAt a s).1 (readAt a s).2.p).1 (readAt a s).2
    exact { k with p := rfl }
  exact ((readAt_sameCpu a s).changesOnly.trans (hf _ _)).trans stored.changesOnly

theorem modified_changesOnly {ws : List CpuField} {m : MemMode} {f : Byte → Flags → Byte × Flags}
    {s : State} {len : Nat} (hf : ∀ v u, ChangesOnly ws u { u with p := (f v u.p).2 }) :
    ChangesOnly ws s ((modifyAt (m.address s).1 f (m.address s).2).advance len) :=
  ((address_sameCpu m s).changesOnly.trans (modifyAt_changesOnly hf _ _)).advance len

theorem branch_changesOnly {ws : List CpuField} {c : Prop} [Decidable c] {s : State} {pc : Word}
    {len : Nat} : ChangesOnly ws s (if c then { s with pc := pc } else s.advance len) := by
  split <;> exact setPc_changesOnly s _

theorem jump_changesOnly {ws : List CpuField} (p : Word) (s : State) :
    ChangesOnly ws s { (readWord p s).2 with pc := (readWord p s).1 } :=
  (readWord_sameCpu p s).changesOnly.trans (setPc_changesOnly _ _)

/-- A pull writes S beside what its effect writes. -/
theorem pulled_changesOnly {ws : List CpuField} {e : Byte → State → State} {s : State} {len : Nat}
    (he : ∀ v u, ChangesOnly ws u (e v u)) :
    ChangesOnly (.sp :: ws) s ((e (pull s).1 (pull s).2).advance len) :=
  (((pull_changesOnly s).mono (by simp)).trans
    ((he _ _).mono (List.subset_cons_self _ _))).advance len

/-! Every instruction. -/

/-- The footprint of each instruction. -/
def written : Instr → List CpuField
  | .ldaImm _ | .ldaZp _ | .ldaZpx _ | .ldaAbs _ | .ldaAbx _ | .ldaAby _ | .ldaIzx _ | .ldaIzy _
  | .ldaIzp _ | .txa | .tya | .andImm _ | .andZp _ | .andZpx _ | .andAbs _ | .andAbx _ | .andAby _
  | .andIzx _ | .andIzy _ | .andIzp _ | .oraImm _ | .oraZp _ | .oraZpx _ | .oraAbs _ | .oraAbx _
  | .oraAby _ | .oraIzx _ | .oraIzy _ | .oraIzp _ | .eorImm _ | .eorZp _ | .eorZpx _ | .eorAbs _
  | .eorAbx _ | .eorAby _ | .eorIzx _ | .eorIzy _ | .eorIzp _ | .ina | .dea =>
    [.a, .n, .z]
  | .ldxImm _ | .ldxZp _ | .ldxZpy _ | .ldxAbs _ | .ldxAby _ | .tax | .tsx | .inx | .dex =>
    [.x, .n, .z]
  | .ldyImm _ | .ldyZp _ | .ldyZpx _ | .ldyAbs _ | .ldyAbx _ | .tay | .iny | .dey =>
    [.y, .n, .z]
  | .adcImm _ | .adcZp _ | .adcZpx _ | .adcAbs _ | .adcAbx _ | .adcAby _ | .adcIzx _ | .adcIzy _
  | .adcIzp _ | .sbcImm _ | .sbcZp _ | .sbcZpx _ | .sbcAbs _ | .sbcAbx _ | .sbcAby _ | .sbcIzx _
  | .sbcIzy _ | .sbcIzp _ =>
    [.a, .n, .v, .z, .c]
  | .cmpImm _ | .cmpZp _ | .cmpZpx _ | .cmpAbs _ | .cmpAbx _ | .cmpAby _ | .cmpIzx _ | .cmpIzy _
  | .cmpIzp _ | .cpxImm _ | .cpxZp _ | .cpxAbs _ | .cpyImm _ | .cpyZp _ | .cpyAbs _ | .aslZp _
  | .aslZpx _ | .aslAbs _ | .aslAbx _ | .lsrZp _ | .lsrZpx _ | .lsrAbs _ | .lsrAbx _ | .rolZp _
  | .rolZpx _ | .rolAbs _ | .rolAbx _ | .rorZp _ | .rorZpx _ | .rorAbs _ | .rorAbx _ =>
    [.n, .z, .c]
  | .asla | .lsra | .rola | .rora =>
    [.a, .n, .z, .c]
  | .bitZp _ | .bitAbs _ =>
    [.n, .v, .z]
  | .tsbZp _ | .tsbAbs _ | .trbZp _ | .trbAbs _ =>
    [.z]
  | .incZp _ | .incZpx _ | .incAbs _ | .incAbx _ | .decZp _ | .decZpx _ | .decAbs _ | .decAbx _ =>
    [.n, .z]
  | .txs | .jsr _ | .rts | .pha | .php | .phx | .phy =>
    [.sp]
  | .pla =>
    [.sp, .a, .n, .z]
  | .plx =>
    [.sp, .x, .n, .z]
  | .ply =>
    [.sp, .y, .n, .z]
  | .plp | .rti =>
    [.sp, .n, .v, .d, .i, .z, .c, .slackI]
  | .brk =>
    [.sp, .d, .i]
  | .cli | .sei =>
    [.i, .slackI]
  | .cld | .sed =>
    [.d]
  | .clv =>
    [.v]
  | .clc | .sec =>
    [.c]
  | .staZp _ | .staZpx _ | .staAbs _ | .staAbx _ | .staAby _ | .staIzx _ | .staIzy _ | .staIzp _
  | .stxZp _ | .stxZpy _ | .stxAbs _ | .styZp _ | .styZpx _ | .styAbs _ | .stzZp _ | .stzZpx _
  | .stzAbs _ | .stzAbx _ | .bcc _ | .bcs _ | .beq _ | .bmi _ | .bne _ | .bpl _ | .bvc _ | .bvs _
  | .bra _ | .jmpAbs _ | .jmpInd _ | .jmpIax _ | .nop =>
    []

/-- No instruction changes a place outside its footprint. -/
theorem exec_changesOnly : ∀ (i : Instr) (s t : State), exec i s = .next t →
    ChangesOnly (written i) s t
  | .ldaImm _, _, _, h | .ldaZp _, _, _, h | .ldaZpx _, _, _, h | .ldaAbs _, _, _, h
  | .ldaAbx _, _, _, h | .ldaAby _, _, _, h | .ldaIzx _, _, _, h | .ldaIzy _, _, _, h
  | .ldaIzp _, _, _, h | .andImm _, _, _, h | .andZp _, _, _, h | .andZpx _, _, _, h
  | .andAbs _, _, _, h | .andAbx _, _, _, h | .andAby _, _, _, h | .andIzx _, _, _, h
  | .andIzy _, _, _, h | .andIzp _, _, _, h | .oraImm _, _, _, h | .oraZp _, _, _, h
  | .oraZpx _, _, _, h | .oraAbs _, _, _, h | .oraAbx _, _, _, h | .oraAby _, _, _, h
  | .oraIzx _, _, _, h | .oraIzy _, _, _, h | .oraIzp _, _, _, h | .eorImm _, _, _, h
  | .eorZp _, _, _, h | .eorZpx _, _, _, h | .eorAbs _, _, _, h | .eorAbx _, _, _, h
  | .eorAby _, _, _, h | .eorIzx _, _, _, h | .eorIzy _, _, _, h | .eorIzp _, _, _, h =>
    guarded_changesOnly rfl h (operand_changesOnly (fun _ u => loadA_changesOnly _ u))
  | .ldxImm _, _, _, h | .ldxZp _, _, _, h | .ldxZpy _, _, _, h | .ldxAbs _, _, _, h
  | .ldxAby _, _, _, h =>
    guarded_changesOnly rfl h (operand_changesOnly loadX_changesOnly)
  | .ldyImm _, _, _, h | .ldyZp _, _, _, h | .ldyZpx _, _, _, h | .ldyAbs _, _, _, h
  | .ldyAbx _, _, _, h =>
    guarded_changesOnly rfl h (operand_changesOnly loadY_changesOnly)
  | .adcImm _, _, _, h | .adcZp _, _, _, h | .adcZpx _, _, _, h | .adcAbs _, _, _, h
  | .adcAbx _, _, _, h | .adcAby _, _, _, h | .adcIzx _, _, _, h | .adcIzy _, _, _, h
  | .adcIzp _, _, _, h =>
    guarded_changesOnly rfl h (operand_changesOnly adc_changesOnly)
  | .sbcImm _, _, _, h | .sbcZp _, _, _, h | .sbcZpx _, _, _, h | .sbcAbs _, _, _, h
  | .sbcAbx _, _, _, h | .sbcAby _, _, _, h | .sbcIzx _, _, _, h | .sbcIzy _, _, _, h
  | .sbcIzp _, _, _, h =>
    guarded_changesOnly rfl h (operand_changesOnly sbc_changesOnly)
  | .cmpImm _, _, _, h | .cmpZp _, _, _, h | .cmpZpx _, _, _, h | .cmpAbs _, _, _, h
  | .cmpAbx _, _, _, h | .cmpAby _, _, _, h | .cmpIzx _, _, _, h | .cmpIzy _, _, _, h
  | .cmpIzp _, _, _, h =>
    guarded_changesOnly rfl h (operand_changesOnly cmpA_changesOnly)
  | .cpxImm _, _, _, h | .cpxZp _, _, _, h | .cpxAbs _, _, _, h =>
    guarded_changesOnly rfl h (operand_changesOnly cmpX_changesOnly)
  | .cpyImm _, _, _, h | .cpyZp _, _, _, h | .cpyAbs _, _, _, h =>
    guarded_changesOnly rfl h (operand_changesOnly cmpY_changesOnly)
  | .bitZp _, _, _, h | .bitAbs _, _, _, h =>
    guarded_changesOnly rfl h (operand_changesOnly bitTest_changesOnly)
  | .staZp _, _, _, h | .staZpx _, _, _, h | .staAbs _, _, _, h | .staAbx _, _, _, h
  | .staAby _, _, _, h | .staIzx _, _, _, h | .staIzy _, _, _, h | .staIzp _, _, _, h
  | .stxZp _, _, _, h | .stxZpy _, _, _, h | .stxAbs _, _, _, h | .styZp _, _, _, h
  | .styZpx _, _, _, h | .styAbs _, _, _, h | .stzZp _, _, _, h | .stzZpx _, _, _, h
  | .stzAbs _, _, _, h | .stzAbx _, _, _, h =>
    guarded_changesOnly rfl h store_changesOnly
  | .tsbZp _, _, _, h | .tsbAbs _, _, _, h =>
    guarded_changesOnly rfl h (modified_changesOnly (testSet_changesOnly _))
  | .trbZp _, _, _, h | .trbAbs _, _, _, h =>
    guarded_changesOnly rfl h (modified_changesOnly (testReset_changesOnly _))
  | .aslZp _, _, _, h | .aslZpx _, _, _, h | .aslAbs _, _, _, h | .aslAbx _, _, _, h =>
    guarded_changesOnly rfl h (modified_changesOnly shiftLeft_changesOnly)
  | .lsrZp _, _, _, h | .lsrZpx _, _, _, h | .lsrAbs _, _, _, h | .lsrAbx _, _, _, h =>
    guarded_changesOnly rfl h (modified_changesOnly shiftRight_changesOnly)
  | .rolZp _, _, _, h | .rolZpx _, _, _, h | .rolAbs _, _, _, h | .rolAbx _, _, _, h =>
    guarded_changesOnly rfl h (modified_changesOnly rotateLeft_changesOnly)
  | .rorZp _, _, _, h | .rorZpx _, _, _, h | .rorAbs _, _, _, h | .rorAbx _, _, _, h =>
    guarded_changesOnly rfl h (modified_changesOnly rotateRight_changesOnly)
  | .incZp _, _, _, h | .incZpx _, _, _, h | .incAbs _, _, _, h | .incAbx _, _, _, h =>
    guarded_changesOnly rfl h (modified_changesOnly increment_changesOnly)
  | .decZp _, _, _, h | .decZpx _, _, _, h | .decAbs _, _, _, h | .decAbx _, _, _, h =>
    guarded_changesOnly rfl h (modified_changesOnly decrement_changesOnly)
  | .asla, _, _, h =>
    next_changesOnly h ((onA_changesOnly (shiftLeft_changesOnly _ _)).advance 1)
  | .lsra, _, _, h =>
    next_changesOnly h ((onA_changesOnly (shiftRight_changesOnly _ _)).advance 1)
  | .rola, _, _, h =>
    next_changesOnly h ((onA_changesOnly (rotateLeft_changesOnly _ _)).advance 1)
  | .rora, _, _, h =>
    next_changesOnly h ((onA_changesOnly (rotateRight_changesOnly _ _)).advance 1)
  | .txa, _, _, h | .tya, _, _, h | .ina, _, _, h | .dea, _, _, h =>
    next_changesOnly h ((loadA_changesOnly _ _).advance 1)
  | .tax, _, _, h | .tsx, _, _, h | .inx, _, _, h | .dex, _, _, h =>
    next_changesOnly h ((loadX_changesOnly _ _).advance 1)
  | .tay, _, _, h | .iny, _, _, h | .dey, _, _, h =>
    next_changesOnly h ((loadY_changesOnly _ _).advance 1)
  | .txs, _, _, h =>
    next_changesOnly h ((setSp_changesOnly _ _).advance 1)
  | .clc, _, _, h | .sec, _, _, h =>
    next_changesOnly h ((setC_changesOnly _ _).advance 1)
  | .cld, _, _, h | .sed, _, _, h =>
    next_changesOnly h ((setD_changesOnly _ _).advance 1)
  | .cli, _, _, h | .sei, _, _, h =>
    next_changesOnly h ((loadI_changesOnly _ _ _).advance 1)
  | .clv, _, _, h =>
    next_changesOnly h ((setV_changesOnly _ _).advance 1)
  | .nop, _, _, h =>
    next_changesOnly h ((SameCpu.refl _).changesOnly.advance 1)
  | .bcc _, _, _, h | .bcs _, _, _, h | .beq _, _, _, h | .bmi _, _, _, h | .bne _, _, _, h
  | .bpl _, _, _, h | .bvc _, _, _, h | .bvs _, _, _, h | .bra _, _, _, h =>
    next_changesOnly h branch_changesOnly
  | .jmpAbs nn, s, _, h => next_changesOnly h (setPc_changesOnly s nn)
  | .jmpInd _, _, _, h | .jmpIax _, _, _, h =>
    guarded_changesOnly rfl h (jump_changesOnly _ _)
  | .pha, _, _, h | .php, _, _, h | .phx, _, _, h | .phy, _, _, h =>
    guarded_changesOnly rfl h ((push_changesOnly _ _).advance 1)
  | .pla, _, _, h =>
    guarded_changesOnly rfl h (pulled_changesOnly loadA_changesOnly)
  | .plx, _, _, h =>
    guarded_changesOnly rfl h (pulled_changesOnly loadX_changesOnly)
  | .ply, _, _, h =>
    guarded_changesOnly rfl h (pulled_changesOnly loadY_changesOnly)
  | .plp, _, _, h =>
    guarded_changesOnly rfl h (pulled_changesOnly loadP_changesOnly)
  | .jsr _, _, _, h => guarded_changesOnly rfl h ((pushWord_changesOnly _ _).trans (setPc_changesOnly _ _))
  | .rts, _, _, h => guarded_changesOnly rfl h ((pullWord_changesOnly _).trans (setPc_changesOnly _ _))
  | .brk, _, _, h => guarded_changesOnly rfl h (enterTrap_changesOnly _ _ _ _)
  | .rti, _, _, h => guarded_changesOnly rfl h (returnFromTrap_changesOnly _)

/-- The instructions the rule of each place names (10_state.md R10, R11, R12, R14, R18 to R24), and for the slack of
I those of 60_exceptions.md R264. -/
def writers : CpuField → List String
  | .a => ["ADC", "SBC", "AND", "ORA", "EOR", "ASLA", "LSRA", "ROLA", "RORA", "INA", "DEA", "LDA",
      "PLA", "TXA", "TYA"]
  | .x => ["LDX", "TAX", "TSX", "INX", "DEX", "PLX"]
  | .y => ["LDY", "TAY", "INY", "DEY", "PLY"]
  | .sp => ["TXS", "PHA", "PHP", "PHX", "PHY", "PLA", "PLP", "PLX", "PLY", "JSR", "RTS", "RTI", "BRK"]
  | .n => ["ADC", "AND", "ASL", "ASLA", "BIT", "CMP", "CPX", "CPY", "DEC", "DEX", "DEY", "EOR", "INC",
      "INX", "INY", "LDA", "LDX", "LDY", "ORA", "PLP", "ROL", "ROLA", "ROR", "RORA", "RTI", "SBC",
      "TAX", "TAY", "TSX", "TXA", "TYA", "LSR", "LSRA", "PLA", "PLX", "PLY", "INA", "DEA"]
  | .z => ["ADC", "AND", "ASL", "ASLA", "BIT", "CMP", "CPX", "CPY", "DEC", "DEX", "DEY", "EOR", "INC",
      "INX", "INY", "LDA", "LDX", "LDY", "ORA", "PLP", "ROL", "ROLA", "ROR", "RORA", "RTI", "SBC",
      "TAX", "TAY", "TSX", "TXA", "TYA", "LSR", "LSRA", "PLA", "PLX", "PLY", "INA", "DEA", "TSB",
      "TRB"]
  | .v => ["ADC", "SBC", "BIT", "PLP", "RTI", "CLV"]
  | .d => ["SED", "CLD", "PLP", "RTI", "BRK"]
  | .i => ["SEI", "CLI", "PLP", "RTI", "BRK"]
  | .c => ["ADC", "SBC", "CMP", "CPX", "CPY", "ASL", "ASLA", "LSR", "LSRA", "ROL", "ROLA", "ROR",
      "RORA", "SEC", "CLC", "PLP", "RTI"]
  | .slackI => ["CLI", "SEI", "PLP", "RTI"]

theorem mnemonic_mem_writers (i : Instr) : ∀ f ∈ written i, i.mnemonic ∈ writers f := by
  cases i <;> (dsimp only [written, Instr.mnemonic]; decide)

/-- A place changes only by the instructions its rule names. -/
theorem exec_same {i : Instr} {s t : State} (h : exec i s = .next t) (f : CpuField)
    (hf : i.mnemonic ∉ writers f) : f.Same s t :=
  exec_changesOnly i s t h f fun k => hf (mnemonic_mem_writers i f k)

end Sys2Proof.Machine
end

section
/-! SUPPORT. What instructions, and whole steps of any agent, leave of the lines, the agenda, the devices and the
parameters (10_state.md R29, R34). -/

namespace Sys2Proof.Machine

/-- `t` agrees with `s` on the parameters, the agenda and the input lines of the CPU. -/
structure SameLines (s t : State) : Prop where
  platform : t.platform = s.platform
  agenda : t.agenda = s.agenda
  resLine : t.resLine = s.resLine
  resetPending : t.resetPending = s.resetPending
  extIrq : t.extIrq = s.extIrq
  extNmi : t.extNmi = s.extNmi

theorem SameLines.refl (s : State) : SameLines s s := ⟨rfl, rfl, rfl, rfl, rfl, rfl⟩

theorem SameLines.trans {s t u : State} (h : SameLines s t) (k : SameLines t u) : SameLines s u :=
  ⟨k.platform.trans h.platform, k.agenda.trans h.agenda, k.resLine.trans h.resLine,
    k.resetPending.trans h.resetPending, k.extIrq.trans h.extIrq, k.extNmi.trans h.extNmi⟩

theorem SameBus.sameLines {s t : State} (h : SameBus s t) : SameLines s t :=
  ⟨h.platform, h.agenda, h.resLine, h.resetPending, h.extIrq, h.extNmi⟩

theorem SameCpu.sameLines {s t : State} (h : SameCpu s t) : SameLines s t :=
  ⟨h.platform, h.agenda, h.resLine, h.resetPending, h.extIrq, h.extNmi⟩

theorem Accesses.sameLines {s t : State} {ops : List BusOp} (h : Accesses s ops t) : SameLines s t :=
  h.keeps (P := SameLines s) (fun _ _ hb k => k.trans hb.sameLines)
    (fun a u k => k.trans (readAt_sameCpu a u).sameLines)
    (fun a v u k => k.trans (writeAt_sameCpu a v u).sameLines) (SameLines.refl s)

theorem exec_sameLines {i : Instr} {s t : State} (h : exec i s = .next t) : SameLines s t := by
  obtain ⟨ops, fits⟩ := exec_fits i s t h
  exact fits.run.sameLines

/-- An instruction that completes touched no address that 20_memory.md R61 keeps off the PIA. -/
theorem offPia_of_exec_next {i : Instr} {s t : State} (h : exec i s = .next t) :
    OffPia s (offDeviceAddrs i s) := by
  rcases exec_guarded i s with ⟨u, hu⟩ | ⟨u, -, hnone⟩
  · exact (guarded_eq_next.1 (hu.symm.trans h)).1
  · exact fun a ha => by simp [hnone] at ha

/-- An instruction whose one admitted PIA access goes elsewhere leaves the devices alone. -/
theorem exec_sameDevice {i : Instr} {s t : State} (h : exec i s = .next t)
    (hd : ∀ a, deviceAddr i = some a → s.platform.isPia a = false) : SameDevice s t := by
  obtain ⟨ops, fits⟩ := exec_fits i s t h
  refine fits.run.sameDevice fun o ho => ?_
  rcases fits.place o ho with guardedAddr | admitted
  · exact offPia_of_exec_next h _ guardedAddr
  · exact hd _ admitted

/-! The parameters, along a step of each agent. -/

theorem applyEnv_platform (e : EnvEvent) (s : State) : (applyEnv e s).platform = s.platform := by
  have raw : (applyEnvRaw e s).platform = s.platform := by
    cases e with
    | res l =>
      cases l with
      | low => rfl
      | high =>
        simp only [applyEnvRaw, State.changeRes]
        split <;> rfl
    | piaRes l => rfl
    | extIrq b => rfl
    | extNmi b => rfl
    | port side v => exact (updSection_piaOnly side _ s).platform
    | c1 side l => exact (changeC1_piaOnly side l s).platform
    | c2 side l => exact (changeC2_piaOnly side l s).platform
  exact (((holdPia_piaOnly _).trans (latchNmi_piaOnly s _)).platform).trans raw

theorem freeFlags_piaOnly (side : Side) (s : State) : PiaOnly s (s.freeFlags side) :=
  (((updSection_piaOnly side _ s).trans (draw_piaOnly _ _)).trans (holdPia_piaOnly _)).trans
    (latchNmi_piaOnly s _)

theorem tornWrite_platform (a : Word) (s : State) : (tornWrite a s).platform = s.platform := by
  have stored : (busWrite a (Config.freeByte s.draws) { s with draws := s.draws + 1 }).platform =
      s.platform := (busWrite_sameCpu a _ { s with draws := s.draws + 1 }).platform
  unfold tornWrite
  split
  · exact (freeFlags_piaOnly .a _).platform.trans stored
  · exact (freeFlags_piaOnly .b _).platform.trans stored
  all_goals exact stored

theorem replay_platform (events : List BusEvent) : ∀ (going : Bool) (s : State),
    (replay going events s).platform = s.platform := by
  induction events with
  | nil => exact fun _ _ => rfl
  | cons e events ih =>
    intro going s
    cases e with
    | dma a v => exact (ih going _).trans (applyDma_sameCpu s _).platform
    | piaRead a =>
      simp only [replay]
      split
      · exact (ih true _).trans (busRead_sameCpu a _).platform
      · exact ih false _
    | write a v =>
      simp only [replay]
      split
      · exact (ih true _).trans (busWrite_sameCpu a v _).platform
      · split
        · exact (ih false _).trans (tornWrite_platform a _)
        · exact ih false _

theorem tear_platform (s t : State) : (tear s t).platform = s.platform :=
  (applyEnv_platform _ _).trans (replay_platform t.trace true _)

theorem readBytes_sameCpu : ∀ (n : Nat) (a : Word) (s : State), SameCpu s (readBytes n a s).2
  | 0, _, s => SameCpu.refl s
  | n + 1, a, s => (readAt_sameCpu a s).trans (readBytes_sameCpu n (a + 1#16) _)

/-- A fetch makes reads only. -/
theorem fetch_sameCpu {s t : State} {i : Instr} (h : fetch s = .instr i t) : SameCpu s t := by
  revert h
  unfold fetch
  split
  · simp
  · dsimp only
    split
    · simp
    · split
      · simp
      · split
        · simp only [Fetched.instr.injEq, and_imp]
          rintro - rfl
          exact (readAt_sameCpu _ s).trans (readBytes_sameCpu _ _ _)
        · simp

theorem boundary_platform (s : State) : s.boundary.platform = s.platform := by
  unfold State.boundary
  split <;> rfl

theorem resetSequence_platform (s : State) : (resetSequence s).platform = s.platform :=
  (readWord_sameCpu resetVector _).platform

theorem takeTrap_platform {vec ret : Word} {b : Bool} {s t : State}
    (h : takeTrap vec ret b s = .next t) : t.platform = s.platform := by
  cases guarded_next h
  exact (enterTrap_accesses vec ret b s).sameLines.platform

theorem runInstruction_platform {s t : State} (h : runInstruction s = .next t) :
    t.platform = s.platform := by
  unfold runInstruction at h
  split at h
  next i u fetched => exact (exec_sameLines h).platform.trans (fetch_sameCpu fetched).platform
  next => cases h

theorem cpuStep_platform {s t : State} (h : cpuStep s = .next t) : t.platform = s.platform := by
  unfold cpuStep at h
  split at h
  next =>
    cases h
    rfl
  next =>
    split at h
    next =>
      cases guarded_next h
      exact resetSequence_platform s
    next =>
      split at h
      next => exact (takeTrap_platform h).trans (boundary_platform s)
      next => exact (takeTrap_platform h).trans (boundary_platform s)
      next => exact (runInstruction_platform h).trans (boundary_platform s)

theorem tornStep_platform {s t : State} (h : tornStep s = .next t) : t.platform = s.platform := by
  unfold tornStep at h
  split at h
  next =>
    cases h
    rfl
  next =>
    split at h
    next u _ =>
      cases h
      exact tear_platform s u
    next => cases h
    next => cases h

theorem act_platform {m : Action} {s t : State} (h : act m s = .next t) : t.platform = s.platform := by
  cases m with
  | cpu => exact cpuStep_platform h
  | cpuTorn => exact tornStep_platform h
  | env e =>
    cases h
    exact applyEnv_platform e s
  | dma d =>
    cases h
    exact (applyDma_sameCpu s d).platform

theorem takeTurn_platform {s t : State} (h : takeTurn s = .next t) : t.platform = s.platform := by
  unfold takeTurn at h
  split at h
  next => exact act_platform (s := s.clearTrace) h
  next m rest _ => exact act_platform (s := { s.clearTrace with agenda := rest }) h

end Sys2Proof.Machine
end

section
/-! SUPPORT. The image of P bit by bit (10_state.md R26, R27). -/

namespace Sys2Proof

theorem bit_or (b c : Byte) (k : Nat) : bit (b ||| c) k = (bit b k || bit c k) := BitVec.getLsbD_or

/-- A one-bit byte shows its bit at its own place and 0 elsewhere. -/
theorem bit_bitAt (x : Bool) (j k : Nat) : bit (bitAt x j) k = (x && decide (k = j) && decide (k < 8)) := by
  cases x with
  | false => simp [bit, bitAt]
  | true =>
    rw [Bool.eq_iff_iff]
    simp [bit, bitAt]
    omega

/-- A bit of a byte by place value. -/
theorem bit_eq_place (v : Byte) (k : Nat) : bit v k = decide (v.toNat / 2 ^ k % 2 = 1) :=
  Nat.testBit_eq_decide_div_mod_eq

namespace Machine

/-- `setP` of `Pbyte` gives every flag back: no flag's bit is another's, nor bit 5 or 4. -/
theorem ofByte_image (p : Flags) (b : Bool) : Flags.ofByte (Flags.image p b) = p := by
  simp [Flags.ofByte, Flags.image, bit_or, bit_bitAt]

theorem ofByte_eq_flagsOfByte (v : Byte) : Flags.ofByte v = Claims.flagsOfByte v := by
  simp [Flags.ofByte, Claims.flagsOfByte, bit_eq_place]

/-- The OR of the placed bits is the sum of their place values. -/
theorem image_eq_flagByte (p : Flags) (b : Bool) : Flags.image p b = Claims.flagByte p b := by
  have all : ∀ n v d i z c b : Bool,
      Flags.image ⟨n, v, d, i, z, c⟩ b = Claims.flagByte ⟨n, v, d, i, z, c⟩ b := by decide
  exact all p.n p.v p.d p.i p.z p.c b

end Machine
end Sys2Proof
end

section
/-! The statements about the state (10_state.md). -/

namespace Sys2Proof.Proofs

open Sys2Proof.Machine

/-- Settles O40: the round trip bit by bit, the place values over the seven bits shown. -/
theorem statusImageRoundTrips : Obligations.StatusImageRoundTrips :=
  ⟨fun p b => ⟨image_eq_flagByte p b, ofByte_image p b⟩, ofByte_eq_flagsOfByte⟩

/-- Settles O47, by the footprint of every instruction. -/
theorem registersChangeOnlyByTheirInstructions : Obligations.RegistersChangeOnlyByTheirInstructions :=
  fun _ _ _ h => ⟨exec_same h .a, exec_same h .x, exec_same h .y, exec_same h .sp⟩

/-- Settles O48, by the footprint of every instruction. -/
theorem flagsChangeOnlyByTheirInstructions : Obligations.FlagsChangeOnlyByTheirInstructions :=
  fun _ _ _ h => ⟨exec_same h .n, exec_same h .z, exec_same h .v, exec_same h .d, exec_same h .i,
    exec_same h .c⟩

/-- Settles O49: the lines by the bus accesses of an instruction, the slack of I by its footprint, the devices by
the places of its accesses. -/
theorem instructionsLeaveLinesAndDevicesAlone : Obligations.InstructionsLeaveLinesAndDevicesAlone := by
  intro i s t h
  obtain ⟨platform, agenda, resLine, resetPending, extIrq, extNmi⟩ := exec_sameLines h
  refine ⟨platform, agenda, resLine, resetPending, extIrq, extNmi, exec_same h .slackI, fun hd => ?_⟩
  obtain ⟨pia, nmiPending, slackLine, pinEvents⟩ := exec_sameDevice h hd
  exact ⟨pia, nmiPending, slackLine, pinEvents⟩

/-- Settles O60, by the move of each agent. -/
theorem parametersNeverChange : Obligations.ParametersNeverChange := fun _ _ h => takeTurn_platform h

/-- Settles O15: the fields of the reset state, read off. -/
theorem resetStateHasTheSpecValues : Obligations.ResetStateHasTheSpecValues :=
  ⟨rfl, rfl, rfl, rfl, rfl, rfl, rfl, rfl⟩

/-- Settles O59: the memory is empty and both sections are zero, which is consistent. -/
theorem resetStateHasTheInvariant : Obligations.ResetStateHasTheInvariant :=
  ⟨rfl, rfl, rfl, fun _ => ⟨rfl, rfl⟩⟩

end Sys2Proof.Proofs
end

section
/-! SUPPORT. What a step of each agent can do, and from it that every step keeps the invariant of memory and PIA
(20_memory.md R40; 62_pia_r6520.md R320, R322, R326, R337). -/

namespace Sys2Proof.Machine

theorem readBytes_accesses : ∀ (n : Nat) (a : Word) (s : State), ∃ ops, Accesses s ops (readBytes n a s).2
  | 0, _, s => ⟨[], .done (SameBus.refl s)⟩
  | n + 1, a, s => by
    obtain ⟨ops, rest⟩ := readBytes_accesses n (a + 1#16) (readAt a s).2
    exact ⟨.read a :: ops, (readAt_accesses a s).append rest⟩

/-- A fetch that answers an instruction has read the opcode and then the operand bytes. -/
theorem fetch_instr {s t : State} {i : Instr} (h : fetch s = .instr i t) :
    ∃ n, t = (readBytes n (s.pc + 1#16) (readAt s.pc s).2).2 := by
  unfold fetch at h
  split at h
  next => cases h
  next =>
    dsimp only at h
    split at h
    next => cases h
    next len _ =>
      split at h
      next => cases h
      next =>
        split at h
        next =>
          cases h
          exact ⟨len - 1, rfl⟩
        next => cases h

theorem fetch_accesses {s t : State} {i : Instr} (h : fetch s = .instr i t) : ∃ ops, Accesses s ops t := by
  obtain ⟨n, rfl⟩ := fetch_instr h
  obtain ⟨ops, operands⟩ := readBytes_accesses n (s.pc + 1#16) (readAt s.pc s).2
  exact ⟨.read s.pc :: ops, (readAt_accesses s.pc s).append operands⟩

/-- An instruction, from its fetch on, is bus accesses and changes the bus does not see. -/
theorem runInstruction_accesses {s t : State} (h : runInstruction s = .next t) : ∃ ops, Accesses s ops t := by
  unfold runInstruction at h
  split at h
  next i u fetched =>
    obtain ⟨fetches, hf⟩ := fetch_accesses fetched
    obtain ⟨ops, fits⟩ := exec_fits i u t h
    exact ⟨fetches ++ ops, hf.append fits.run⟩
  next => cases h

/-- What a step of the CPU can do (60_exceptions.md R281): nothing while RES is low, the reset sequence, the entry
of an NMI, the entry of an IRQ, an instruction. -/
theorem cpuStep_next {s t : State} (h : cpuStep s = .next t) :
    (s.resLine = .low ∧ t = s) ∨
    (s.resetPending = true ∧ t = resetSequence s) ∨
    (s.selection = .nmi ∧ t = enterTrap nmiVector s.boundary.pc false { s.boundary with nmiPending := false }) ∨
    (s.selection = .irq ∧ t = enterTrap irqVector s.boundary.pc false s.boundary) ∨
    (s.selection = .instruction ∧ runInstruction s.boundary = .next t) := by
  unfold cpuStep at h
  split at h
  next held =>
    cases h
    exact .inl ⟨held, rfl⟩
  next =>
    split at h
    next pending => exact .inr (.inl ⟨pending, guarded_next h⟩)
    next =>
      split at h
      next sel => exact .inr (.inr (.inl ⟨sel, guarded_next h⟩))
      next sel => exact .inr (.inr (.inr (.inl ⟨sel, guarded_next h⟩)))
      next sel => exact .inr (.inr (.inr (.inr ⟨sel, h⟩)))

/-- What a step torn by RES can do (70_reset_and_hazards.md R351). -/
theorem tornStep_next {s t : State} (h : tornStep s = .next t) :
    (s.resLine = .low ∧ t = s) ∨ ∃ u, cpuStep s = .next u ∧ t = tear s u := by
  unfold tornStep at h
  split at h
  next held =>
    cases h
    exact .inl ⟨held, rfl⟩
  next =>
    split at h
    next u whole =>
      cases h
      exact .inr ⟨u, whole, rfl⟩
    next => cases h
    next => cases h

theorem boundary_inv {s : State} (h : s.Inv) : s.boundary.Inv := by
  unfold State.boundary
  split
  · exact Inv_congr (s := s) rfl rfl rfl rfl h
  · exact h

theorem enterTrap_inv {s : State} (vec ret : Word) (b : Bool) (h : s.Inv) : (enterTrap vec ret b s).Inv :=
  (enterTrap_accesses vec ret b s).inv h

theorem readWord_inv {s : State} (a : Word) (h : s.Inv) : (readWord a s).2.Inv := (readWord_accesses a s).inv h

/-- The reset sequence writes registers, reads its vector and loads PC. -/
theorem resetSequence_inv {s : State} (h : s.Inv) : (resetSequence s).Inv :=
  Inv_congr rfl rfl rfl rfl (readWord_inv resetVector (Inv_congr (s := s) rfl rfl rfl rfl h))

theorem cpuStep_inv {s t : State} (hs : s.Inv) (h : cpuStep s = .next t) : t.Inv := by
  have hb := boundary_inv hs
  rcases cpuStep_next h with ⟨_, rfl⟩ | ⟨_, rfl⟩ | ⟨_, rfl⟩ | ⟨_, rfl⟩ | ⟨_, run⟩
  · exact hs
  · exact resetSequence_inv hs
  · exact enterTrap_inv _ _ _ (Inv_congr (s := s.boundary) rfl rfl rfl rfl hb)
  · exact enterTrap_inv _ _ _ hb
  · obtain ⟨ops, acc⟩ := runInstruction_accesses run
    exact acc.inv hb

theorem act_inv {m : Action} {s t : State} (hs : s.Inv) (h : act m s = .next t) : t.Inv := by
  cases m with
  | cpu => exact cpuStep_inv hs h
  | cpuTorn =>
    rcases tornStep_next h with ⟨_, rfl⟩ | ⟨u, _, rfl⟩
    · exact hs
    · exact tear_inv u hs
  | env e =>
    cases h
    exact applyEnv_inv e hs
  | dma d =>
    cases h
    exact applyDma_inv d hs

theorem takeTurn_inv {s t : State} (hs : s.Inv) (h : takeTurn s = .next t) : t.Inv := by
  unfold takeTurn at h
  split at h
  next => exact act_inv (s := s.clearTrace) (Inv_congr (s := s) rfl rfl rfl rfl hs) h
  next m rest _ =>
    exact act_inv (s := { s.clearTrace with agenda := rest }) (Inv_congr (s := s) rfl rfl rfl rfl hs) h

end Sys2Proof.Machine
end

section
/-! SUPPORT. Stack addresses by number, what one access does to the byte it addresses, and the load and the store of
an absolute address (20_memory.md R41, R42, R47, R48, R59). -/

namespace Sys2Proof.Machine

theorem stackAddr_eq_ofNat (b : Byte) : stackAddr b = BitVec.ofNat 16 (256 + b.toNat) := by
  apply BitVec.eq_of_toNat_eq
  have := b.isLt
  rw [stackAddr_toNat, BitVec.toNat_ofNat]
  omega

/-- The byte just written to RAM is there. -/
theorem writeAt_ram_peek {s : State} {a : Word} {v : Byte} (h : NoDma s) (ram : IsRam s a) :
    (writeAt a v s).peek a = v := by
  rw [writeAt_ram h ram]
  exact Memory.read_write_self s.mem a.toNat v

/-- A pull after a push to RAM gives the byte back and leaves S as it was (20_memory.md R47, R48). -/
theorem pull_push_ram {s : State} {v : Byte} (h : NoDma s) (ram : IsRam s (stackAddr s.sp)) :
    (pull (push v s)).1 = v ∧ (pull (push v s)).2.sp = s.sp := by
  have back : (push v s).sp + 1#8 = s.sp := by simp
  have absent : NoDma (push v s) := (writeAt_mem h).2
  have memory : IsMemory (push v s) (stackAddr ((push v s).sp + 1#8)) := by
    rw [back, push_ram h ram]
    exact .inl ram
  rw [pull_memory absent memory, back]
  exact ⟨writeAt_ram_peek h ram, rfl⟩

/-- A write of RAM by the DMA agent that is due before the next access (20_memory.md R59). -/
theorem dmaTurn_write_ram {s : State} {a : Word} {v : Byte} {rest : List (List DmaAccess)} (ram : IsRam s a)
    (due : s.dmaTurns = [.write a v] :: rest) :
    s.dmaTurn = { s with
      dmaTurns := rest
      mem := Memory.write s.mem a.toNat v
      trace := s.trace ++ [BusEvent.dma a v] } := by
  simp [State.dmaTurn, due, applyDma, ram]

theorem exec_staAbs (nn : Word) (s : State) : exec (.staAbs nn) s = .next ((writeAt nn s.a s).advance 3) := rfl

theorem exec_ldxAbs (nn : Word) (s : State) :
    exec (.ldxAbs nn) s = .next ((loadX (readAt nn s).1 (readAt nn s).2).advance 3) := rfl

end Sys2Proof.Machine
end

section
/-! SUPPORT. When the guard of 20_memory.md R61 refuses: an instruction, a fetch, a trap entry, the reset sequence. -/

namespace Sys2Proof.Machine

theorem exists_isPia_of_not_offPia {s : State} {as : List Word} (h : ¬ OffPia s as) :
    ∃ a ∈ as, s.platform.isPia a = true := by simpa using h

theorem exec_next_of_offPia {i : Instr} {s : State} (h : OffPia s (offDeviceAddrs i s)) :
    ∃ t, exec i s = .next t := by
  rcases exec_guarded i s with ⟨u, hu⟩ | ⟨u, hu, _⟩
  · exact ⟨u, hu.trans (guarded_of_off h)⟩
  · exact ⟨u, hu⟩

theorem exec_refused_of_not_offPia {i : Instr} {s : State} (h : ¬ OffPia s (offDeviceAddrs i s)) :
    ∃ a ∈ offDeviceAddrs i s, s.platform.isPia a = true ∧ exec i s = .refused (.deviceUnsafe a) := by
  have onPia := exists_isPia_of_not_offPia h
  rcases exec_guarded i s with ⟨u, hu⟩ | ⟨_, _, hnone⟩
  · rw [hu]
    exact guarded_refused onPia
  · obtain ⟨a, ha, _⟩ := onPia
    simp [hnone] at ha

/-- The zero page and absolute forms of the loads, stores, compares and logic of 20_memory.md R61 touch nothing the
rule keeps off the PIA. -/
theorem offDeviceAddrs_admitted (i : Instr) (s : State)
    (hm : i.mnemonic ∈ ["LDA", "LDX", "LDY", "STA", "STX", "STY", "STZ", "BIT", "CMP", "CPX", "CPY",
      "AND", "ORA", "EOR", "ADC", "SBC"]) (hf : i.format = .zp ∨ i.format = .abs) :
    offDeviceAddrs i s = [] := by
  cases i <;> simp [Instr.mnemonic, Instr.format, offDeviceAddrs, instrAccess, Source.deviceTouched,
    MemMode.deviceTouched] at hm hf ⊢

theorem add_one_add_ofNat (a : Word) (j : Nat) : a + 1#16 + BitVec.ofNat 16 j = a + BitVec.ofNat 16 (j + 1) := by
  rw [BitVec.add_assoc, ← BitVec.ofNat_add, Nat.add_comm]

theorem mem_addrsFrom {n : Nat} {a b : Word} :
    b ∈ addrsFrom n a ↔ ∃ j < n, b = a + BitVec.ofNat 16 j := by
  induction n generalizing a with
  | zero => simp [addrsFrom]
  | succ n ih =>
    simp only [addrsFrom, List.mem_cons, ih, add_one_add_ofNat]
    constructor
    · rintro (rfl | ⟨j, hj, rfl⟩)
      · exact ⟨0, by omega, by simp⟩
      · exact ⟨j + 1, by omega, rfl⟩
    · rintro ⟨_ | j, hj, rfl⟩
      · simp
      · exact .inr ⟨j, by omega, rfl⟩

theorem fetch_refused_opcode {s : State} (h : s.platform.isPia s.pc = true) :
    fetch s = .refused (.deviceUnsafe s.pc) := by
  simp [fetch, h]

/-- Where the opcode is off the PIA, an operand byte on it is refused. -/
theorem fetch_refused_operand {s : State} {len : Nat} (off : s.platform.isPia s.pc = false)
    (hlen : opcodeLength (readAt s.pc s).1 = some len)
    (h : ∃ a ∈ addrsFrom (len - 1) (s.pc + 1#16), s.platform.isPia a = true) :
    ∃ a ∈ addrsFrom (len - 1) (s.pc + 1#16), s.platform.isPia a = true ∧
      fetch s = .refused (.deviceUnsafe a) := by
  cases found : (addrsFrom (len - 1) (s.pc + 1#16)).find? s.platform.isPia with
  | none =>
    obtain ⟨a, ha, onPia⟩ := h
    exact absurd onPia (List.find?_eq_none.1 found a ha)
  | some a =>
    exact ⟨a, List.mem_of_find?_eq_some found, List.find?_some found, by simp [fetch, off, hlen, found]⟩

theorem runInstruction_refused {s : State} {r : Refusal} (h : fetch s = .refused r) :
    runInstruction s = .refused r := by
  simp [runInstruction, h]

/-- A byte of the instruction on the PIA, its opcode off it: the first operand byte there is named. -/
theorem runInstruction_refused_operand {s : State} {len k : Nat} (off : s.platform.isPia s.pc = false)
    (hlen : opcodeLength (readAt s.pc s).1 = some len) (hk : k < len)
    (onPia : s.platform.isPia (s.pc + BitVec.ofNat 16 k) = true) :
    ∃ j < len, s.platform.isPia (s.pc + BitVec.ofNat 16 j) = true ∧
      runInstruction s = .refused (.deviceUnsafe (s.pc + BitVec.ofNat 16 j)) := by
  cases k with
  | zero => simp [off] at onPia
  | succ k =>
    have operand : s.pc + BitVec.ofNat 16 (k + 1) ∈ addrsFrom (len - 1) (s.pc + 1#16) :=
      mem_addrsFrom.2 ⟨k, by omega, (add_one_add_ofNat s.pc k).symm⟩
    obtain ⟨a, ha, hp, hf⟩ := fetch_refused_operand off hlen ⟨_, operand, onPia⟩
    obtain ⟨j, hj, rfl⟩ := mem_addrsFrom.1 ha
    rw [add_one_add_ofNat] at hp hf
    exact ⟨j + 1, by omega, hp, runInstruction_refused hf⟩

theorem pushAddrs_three (sp : Byte) :
    pushAddrs sp 3 = [stackAddr sp, stackAddr (sp - 1#8), stackAddr (sp - 2#8)] := by
  have two : sp - 1#8 - 1#8 = sp - 2#8 := by bv_omega
  simp [pushAddrs, two]

theorem takeTrap_refused {s : State} {vec ret : Word} {b : Bool}
    (h : ¬ OffPia s [stackAddr s.sp, stackAddr (s.sp - 1#8), stackAddr (s.sp - 2#8), vec, vec + 1#16]) :
    ∃ a, s.platform.isPia a = true ∧ takeTrap vec ret b s = .refused (.deviceUnsafe a) := by
  have touched : pushAddrs s.sp 3 ++ [vec, vec + 1#16] =
      [stackAddr s.sp, stackAddr (s.sp - 1#8), stackAddr (s.sp - 2#8), vec, vec + 1#16] := by
    rw [pushAddrs_three]
    rfl
  rw [← touched] at h
  obtain ⟨a, _, onPia, refused⟩ := guarded_refused (t := enterTrap vec ret b s) (exists_isPia_of_not_offPia h)
  exact ⟨a, onPia, refused⟩

end Sys2Proof.Machine
end

section
/-! The statements about memory (20_memory.md). -/

namespace Sys2Proof.Proofs

open Sys2Proof.Machine

/-- Settles O58, by the move of each agent. -/
theorem everyStepKeepsTheInvariant : Obligations.EveryStepKeepsTheInvariant := fun _ _ => takeTurn_inv

/-- Settles O36: the addresses and S by number, then the pull of what was pushed. -/
theorem pushAndPullUseThePageOneStack : Obligations.PushAndPullUseThePageOneStack := by
  intro s v
  have down : s.sp - 1#8 = BitVec.ofNat 8 ((s.sp.toNat + 255) % 256) := by bv_omega
  have up : (s.sp + 1#8).toNat = (s.sp.toNat + 1) % 256 := by bv_omega
  refine ⟨?_, ?_, pull_push_ram⟩
  · simp only [push, writeAt_sp, down, stackAddr_eq_ofNat]
  · simp only [pull, ← up, stackAddr_eq_ofNat, BitVec.ofNat_toNat, BitVec.setWidth_eq]

/-- Settles O42, target by target. -/
theorem accessesFollowTheAddressMap : Obligations.AccessesFollowTheAddressMap := by
  intro s a v h
  refine ⟨readAt_memory h, fun t => ⟨_, _, readAt_unmapped h t⟩, fun _ => readAt_pia h, ?_, ?_,
    fun _ => writeAt_pia h⟩
  · intro ram
    refine ⟨writeAt_ram_peek h ram, (writeAt_mem h).1, ?_⟩
    rw [writeAt_ram h ram]
  · rintro (rom | unmapped)
    · exact writeAt_rom h rom
    · exact writeAt_unmapped h unmapped

/-- Settles O43: the load reads the state the store leaves, and changes no byte itself. -/
theorem storeIsSeenByTheNextLoad : Obligations.StoreIsSeenByTheNextLoad := by
  intro s nn h ram
  refine ⟨_, _, exec_staAbs nn s, exec_ldxAbs nn _, ?_⟩
  have absent : NoDma ((writeAt nn s.a s).advance 3) := (writeAt_mem h).2
  have memory : IsMemory ((writeAt nn s.a s).advance 3) nn := by
    simpa only [IsMemory, State.advance_platform, writeAt_platform] using Or.inl ram
  rw [readAt_memory absent memory]
  exact ⟨writeAt_ram_peek h ram, (writeAt_mem h).1⟩

/-- Settles O44: the read is made in the state the agent's turn leaves. -/
theorem dmaActsBeforeTheNextAccess : Obligations.DmaActsBeforeTheNextAccess := by
  intro s a v rest ram due
  have turn := dmaTurn_write_ram ram due
  have read : readAt a s = (s.dmaTurn.peek a, s.dmaTurn) := by
    simp [readAt, busRead, ram, State.peek]
  rw [read, turn]
  exact ⟨Memory.read_write_self _ _ _, rfl, fun b hb =>
    Memory.read_write_ne _ _ fun e => hb (BitVec.eq_of_toNat_eq e)⟩

/-- Settles O45: the guard of each form decides. -/
theorem forbiddenDeviceTouchesAreRefused : Obligations.ForbiddenDeviceTouchesAreRefused :=
  ⟨fun i s => ⟨exec_next_of_offPia, exec_refused_of_not_offPia, offDeviceAddrs_admitted i s⟩,
    fun _ onPia => runInstruction_refused (fetch_refused_opcode onPia),
    fun _ _ _ _ => takeTrap_refused,
    fun _ _ _ => runInstruction_refused_operand,
    fun _ h => guarded_refused (exists_isPia_of_not_offPia h)⟩

/-- Settles O46: the accesses of an instruction store to its stored addresses only. -/
theorem memoryChangesOnlyWhereStored : Obligations.MemoryChangesOnlyWhereStored := by
  intro i s t absent h a notStored
  obtain ⟨_, fits⟩ := exec_fits i s t h
  exact fits.run.peek absent a fun stored => notStored (fits.stored a stored)

end Sys2Proof.Proofs
end

section
/-! SUPPORT. The opcode map and the encoder describe the same bytes: what one cell of the map reads, row by row and
instruction by instruction, and from it when the decoder answers an instruction (30_encoding.md R70, R71, R82, R83). -/

namespace Sys2Proof

/-- The cell's instructions are encoded as `op` and then their operand bytes, low byte first. -/
def Build.Encodes (op : Byte) : Build → Prop
  | .one i => encode i = [op]
  | .two f => ∀ n, encode (f n) = [op, n]
  | .three f => ∀ nn, encode (f nn) = [op, loByte nn, hiByte nn]

/-- `i` is an instruction of the cell, for some operand. -/
inductive Build.Makes : Build → Instr → Prop
  | one (i : Instr) : Makes (.one i) i
  | two (f : Byte → Instr) (n : Byte) : Makes (.two f) (f n)
  | three (f : Word → Instr) (nn : Word) : Makes (.three f) (f nn)

theorem loByte_wordOf (hi lo : Byte) : loByte (wordOf hi lo) = lo :=
  BitVec.extractLsb'_append_eq_right

theorem hiByte_wordOf (hi lo : Byte) : hiByte (wordOf hi lo) = hi :=
  BitVec.extractLsb'_append_eq_left

/-- What a cell reads from the bytes after the opcode is an instruction of its own whose encoding they are. -/
theorem Build.encode_of_apply {b : Build} {op : Byte} {bytes rest : List Byte} {i : Instr} (enc : b.Encodes op)
    (h : b.apply bytes = .ok (i, rest)) : op :: bytes = encode i ++ rest := by
  unfold Build.apply at h
  split at h
  next =>
    cases h
    rw [show encode i = [op] from enc]
    rfl
  next f n r =>
    cases h
    rw [enc n]
    rfl
  next => cases h
  next f lo hi r =>
    cases h
    rw [enc (wordOf hi lo), loByte_wordOf, hiByte_wordOf]
    rfl
  next => cases h
  next => cases h

/-- A cell reads each of its instructions back from the bytes after the opcode. -/
theorem Build.apply_encode {b : Build} {op : Byte} {tail : List Byte} {i : Instr} (enc : b.Encodes op)
    (makes : b.Makes i) (h : encode i = op :: tail) (rest : List Byte) :
    b.apply (tail ++ rest) = .ok (i, rest) := by
  cases makes with
  | one =>
    obtain rfl : tail = [] := List.tail_eq_of_cons_eq (h.symm.trans enc)
    rfl
  | two f n =>
    obtain rfl : tail = [n] := List.tail_eq_of_cons_eq (h.symm.trans (enc n))
    rfl
  | three f nn =>
    obtain rfl : tail = [loByte nn, hiByte nn] := List.tail_eq_of_cons_eq (h.symm.trans (enc nn))
    show Except.ok (f (wordOf (hiByte nn) (loByte nn)), rest) = _
    rw [wordOf_bytes]

/-- Every cell of the map, against the encoder (30_encoding.md R82). -/
theorem opcodeMap_encodes : ∀ r ∈ opcodeMap, r.build.Encodes r.op := by
  simp only [opcodeMap, rows0, rows1, rows2, rows3, rows4, rows5, rows6, rows7, rows8, rows9, rowsA, rowsB, rowsC,
    rowsD, rowsE, rowsF, List.forall_mem_append, List.forall_mem_cons, List.not_mem_nil,
    false_imp_iff, implies_true, and_true, Build.Encodes]
  and_intros <;> intros <;> rfl

theorem findRow_encodes {op : Byte} {r : OpRow} (h : findRow op = some r) : r.build.Encodes op := by
  have same : r.op = op := by simpa using List.find?_some h
  exact same ▸ opcodeMap_encodes r (List.mem_of_find?_eq_some h)

/-- Every instruction is in the map, in the cell its first byte finds (30_encoding.md R82). -/
theorem findRow_opcode (i : Instr) :
    ∃ op tail r, encode i = op :: tail ∧ findRow op = some r ∧ r.build.Makes i := by
  cases i <;> exact ⟨_, _, _, rfl, rfl, by constructor⟩

theorem decode_of_findRow {op : Byte} {r : OpRow} (h : findRow op = some r) (bytes : List Byte) :
    decode (op :: bytes) = r.build.apply bytes := by
  simp [decode, h]

theorem decode_undocumented {op : Byte} (h : findRow op = none) (bytes : List Byte) :
    decode (op :: bytes) = .error (.undocumented op) := by
  simp [decode, h]

theorem decode_encode (i : Instr) (rest : List Byte) : decode (encode i ++ rest) = .ok (i, rest) := by
  obtain ⟨op, tail, r, enc, found, makes⟩ := findRow_opcode i
  rw [enc, List.cons_append, decode_of_findRow found]
  exact Build.apply_encode (findRow_encodes found) makes enc rest

theorem encode_of_decode {bytes rest : List Byte} {i : Instr} (h : decode bytes = .ok (i, rest)) :
    bytes = encode i ++ rest := by
  cases bytes with
  | nil => cases h
  | cons op bytes =>
    cases found : findRow op with
    | none =>
      rw [decode_undocumented found] at h
      cases h
    | some r =>
      rw [decode_of_findRow found] at h
      exact Build.encode_of_apply (findRow_encodes found) h

/-- Two operand bytes are enough for every instruction. -/
theorem decode_three_bytes {op : Byte} {r : OpRow} (h : findRow op = some r) (b1 b2 : Byte) :
    ∃ i rest, decode [op, b1, b2] = .ok (i, rest) := by
  rw [decode_of_findRow h]
  cases r.build <;> exact ⟨_, _, rfl⟩

/-- Every instruction stands in the printed matrix at its opcode (30_encoding.md R82). -/
theorem printedMap_opcode (i : Instr) :
    ∃ op tail, encode i = op :: tail ∧ Claims.printedMap.getD op.toNat none = some (i.mnemonic, i.format) := by
  cases i <;> exact ⟨_, _, rfl, rfl⟩

/-- The opcodes of the cells of the printed matrix that `p` picks, in order. -/
def printedOpcodes (p : Option (String × Format) → Bool) : List Byte :=
  (Claims.printedMap.zipIdx.filter fun c => p c.1).map fun c => BitVec.ofNat 8 c.2

theorem printedMap_length : Claims.printedMap.length = 256 := by
  simp only [Claims.printedMap, List.length_append]
  rfl

theorem mem_printedOpcodes {p : Option (String × Format) → Bool} {op : Byte} :
    op ∈ printedOpcodes p ↔ p (Claims.printedMap.getD op.toNat none) = true := by
  simp only [printedOpcodes, List.mem_map, List.mem_filter, Prod.exists, List.mk_mem_zipIdx_iff_getElem?]
  constructor
  · rintro ⟨cell, k, ⟨at_k, picked⟩, rfl⟩
    have small : k < 256 := printedMap_length ▸ (List.getElem?_eq_some_iff.1 at_k).1
    rw [BitVec.toNat_ofNat, Nat.mod_eq_of_lt small, List.getD_eq_getElem?_getD, at_k]
    exact picked
  · intro picked
    have inside : op.toNat < Claims.printedMap.length := by
      rw [printedMap_length]
      exact op.isLt
    rw [List.getD_eq_getElem _ none inside] at picked
    exact ⟨_, op.toNat, ⟨List.getElem?_eq_getElem inside, picked⟩, by simp⟩

/-- The cells of the map are the cells of the matrix that are no dash. -/
theorem opcodeMap_ops : opcodeMap.map OpRow.op = printedOpcodes Option.isSome := by rfl

/-- The list of 30_encoding.md R86 is the dashes of the matrix. -/
theorem undocumentedOpcodes_eq : Claims.undocumentedOpcodes = printedOpcodes Option.isNone := by rfl

theorem findRow_eq_none_iff (op : Byte) : findRow op = none ↔ Claims.printedMap.getD op.toNat none = none := by
  have cell : op ∈ opcodeMap.map OpRow.op ↔ (Claims.printedMap.getD op.toNat none).isSome = true := by
    rw [opcodeMap_ops, mem_printedOpcodes]
  rw [← Option.not_isSome_iff_eq_none (o := Claims.printedMap.getD op.toNat none), ← cell]
  simp [findRow]

theorem mem_undocumentedOpcodes {op : Byte} : op ∈ Claims.undocumentedOpcodes ↔ findRow op = none := by
  rw [undocumentedOpcodes_eq, mem_printedOpcodes, Option.isNone_iff_eq_none, findRow_eq_none_iff]

/-- The matrix shows at an opcode what the decoder reads there. -/
theorem printedMap_of_decode {op : Byte} {bytes rest : List Byte} {i : Instr}
    (h : decode (op :: bytes) = .ok (i, rest)) :
    Claims.printedMap.getD op.toNat none = some (i.mnemonic, i.format) := by
  obtain ⟨op', tail, enc, cell⟩ := printedMap_opcode i
  have first := encode_of_decode h
  rw [enc] at first
  rwa [List.head_eq_of_cons_eq first]

theorem opcodeLength_eq_none_iff {op : Byte} : opcodeLength op = none ↔ findRow op = none := Option.map_eq_none_iff

namespace Machine

/-- An undocumented byte at PC, off the PIA, is refused by name (30_encoding.md R86). -/
theorem fetch_refused_undocumented {s : State} (off : s.platform.isPia s.pc = false)
    (h : findRow (readAt s.pc s).1 = none) : fetch s = .refused (.undocumentedOpcode (readAt s.pc s).1) := by
  simp [fetch, off, opcodeLength_eq_none_iff.2 h]

end Machine
end Sys2Proof
end

section
/-! The statements about the encoding (30_encoding.md). -/

namespace Sys2Proof.Proofs

open Sys2Proof.Machine

/-- Settles O1: the first byte finds the instruction's cell, and the cell reads its own instructions back. -/
theorem decodeReadsBackEveryEncoding : Obligations.DecodeReadsBackEveryEncoding := decode_encode

/-- Settles O2: the cell found agrees with the encoder. -/
theorem decodeAcceptsOnlyEncodings : Obligations.DecodeAcceptsOnlyEncodings := fun _ _ _ => encode_of_decode

/-- Settles O3: an opcode with a cell starts an instruction, which the matrix shows; one without is a dash. -/
theorem opcodeMapIsThePrintedMatrix : Obligations.OpcodeMapIsThePrintedMatrix := by
  intro op b1 b2
  cases found : findRow op with
  | none =>
    rw [(findRow_eq_none_iff op).1 found]
    exact decode_undocumented found [b1, b2]
  | some r =>
    obtain ⟨i, rest, read⟩ := decode_three_bytes found b1 b2
    rw [printedMap_of_decode read]
    exact ⟨i, rest, read, rfl, rfl⟩

/-- Settles O4: the list is the bytes without a cell, and the fetch refuses them. -/
theorem undocumentedOpcodesAreRefused : Obligations.UndocumentedOpcodesAreRefused :=
  ⟨fun _ => opcodeLength_eq_none_iff.trans mem_undocumentedOpcodes.symm,
    fun _ off undocumented =>
      runInstruction_refused (fetch_refused_undocumented off (mem_undocumentedOpcodes.1 undocumented))⟩

/-- Settles O5: each word evaluated. -/
theorem sampleWordsDecode : Obligations.SampleWordsDecode := ⟨rfl, rfl, rfl, rfl, rfl, rfl, rfl⟩

end Sys2Proof.Proofs
end

section
/-! SUPPORT. The sums of the addressing modes by number, and the equation of each mode that adds or reads a pointer: an
index added in a byte wraps in page 0, one added to a word modulo 65536, and a pointer in memory is read without a trace
(40_addressing_modes.md R104 to R115). -/

namespace Sys2Proof

theorem zext_eq_ofNat (b : Byte) : zext b = BitVec.ofNat 16 b.toNat := (BitVec.ofNat_toNat 16 b).symm

/-- A sum in page 0 loses its carry. -/
theorem zext_add (b c : Byte) : zext (b + c) = BitVec.ofNat 16 ((b.toNat + c.toNat) % 256) := by
  rw [zext_eq_ofNat, BitVec.toNat_add]

theorem zext_add_add (b c d : Byte) :
    zext (b + c + d) = BitVec.ofNat 16 ((b.toNat + c.toNat + d.toNat) % 256) := by
  rw [zext_add, BitVec.toNat_add, Nat.mod_add_mod]

theorem add_zext (w : Word) (b : Byte) : w + zext b = BitVec.ofNat 16 (w.toNat + b.toNat) := by
  rw [BitVec.ofNat_add, ← zext_eq_ofNat, BitVec.ofNat_toNat, BitVec.setWidth_eq]

namespace Machine

theorem zeroPagePointer_memory {s : State} {p : Byte} (h : NoDma s) (lo : IsMemory s (zext p))
    (hi : IsMemory s (zext (p + 1#8))) :
    zeroPagePointer p s = (wordOf (s.peek (zext (p + 1#8))) (s.peek (zext p)), s) := by
  rw [zeroPagePointer, readAt_memory h lo]
  dsimp only
  rw [readAt_memory h hi]

theorem address_zp (n : Byte) (s : State) : (MemMode.zp n).address s = (zext n, s) := rfl

theorem address_zpx (n : Byte) (s : State) : (MemMode.zpx n).address s = (zext (n + s.x), s) := rfl

theorem address_zpy (n : Byte) (s : State) : (MemMode.zpy n).address s = (zext (n + s.y), s) := rfl

theorem address_abs (nn : Word) (s : State) : (MemMode.abs nn).address s = (nn, s) := rfl

theorem address_abx (nn : Word) (s : State) : (MemMode.abx nn).address s = (nn + zext s.x, s) := rfl

theorem address_aby (nn : Word) (s : State) : (MemMode.aby nn).address s = (nn + zext s.y, s) := rfl

theorem address_izx (n : Byte) (s : State) : (MemMode.izx n).address s = zeroPagePointer (n + s.x) s := rfl

/-- Y is added to the pointer, after it is read. -/
theorem address_izy (n : Byte) (s : State) :
    (MemMode.izy n).address s = ((zeroPagePointer n s).1 + zext s.y, (zeroPagePointer n s).2) := rfl

theorem address_izp (n : Byte) (s : State) : (MemMode.izp n).address s = zeroPagePointer n s := rfl

end Machine
end Sys2Proof
end

section
/-! The statement about the addressing modes (40_addressing_modes.md). -/

namespace Sys2Proof.Proofs

open Sys2Proof.Machine

/-- Settles O41, mode by mode. -/
theorem effectiveAddressesAsStated : Obligations.EffectiveAddressesAsStated := by
  intro s n nn h
  refine ⟨?zp, ?zpx, ?zpy, address_abs nn s, ?abx, ?aby, ?izx, ?izyAndIzp⟩
  case zp => rw [address_zp, zext_eq_ofNat]
  case zpx => rw [address_zpx, zext_add]
  case zpy => rw [address_zpy, zext_add]
  case abx => rw [address_abx, add_zext]
  case aby => rw [address_aby, add_zext]
  case izx =>
    have second : BitVec.ofNat 16 ((n.toNat + s.x.toNat + 1) % 256) = zext (n + s.x + 1#8) :=
      (zext_add_add n s.x 1#8).symm
    rw [address_izx, second, ← zext_add]
    exact zeroPagePointer_memory h
  case izyAndIzp =>
    have second : BitVec.ofNat 16 ((n.toNat + 1) % 256) = zext (n + 1#8) := (zext_add n 1#8).symm
    rw [second, ← zext_eq_ofNat]
    intro q q1 lo hi
    have pointer : zeroPagePointer n s = (wordOf (s.peek q1) (s.peek q), s) := zeroPagePointer_memory h lo hi
    exact ⟨by rw [address_izy, pointer, add_zext], (address_izp n s).trans pointer⟩

end Sys2Proof.Proofs
end

section
/-! SUPPORT. What an instruction of each shape does to the whole state, PC past it included: one that reads an operand,
one that stores a byte, one that works on registers (10_state.md R16, R25; 40_addressing_modes.md R116). -/

namespace Sys2Proof.Machine

open Claims

/-- N as bit 7 and as the upper half of the byte's range. -/
theorem setNZ_eq_nz (p : Flags) (v : Byte) : Flags.setNZ p v = nz p v := by
  have sign : v.msb = decide (128 ≤ v.toNat) := BitVec.msb_eq_decide v
  have zero : decide (v = 0#8) = decide (v.toNat = 0) := decide_eq_decide.2 BitVec.toNat_eq
  rw [Flags.setNZ, sign, zero, nz]

theorem loadA_eq_nz (v : Byte) (s : State) : loadA v s = { s with a := v, p := nz s.p v } := by
  rw [loadA, setNZ_eq_nz]

theorem loadX_eq_nz (v : Byte) (s : State) : loadX v s = { s with x := v, p := nz s.p v } := by
  rw [loadX, setNZ_eq_nz]

theorem loadY_eq_nz (v : Byte) (s : State) : loadY v s = { s with y := v, p := nz s.p v } := by
  rw [loadY, setNZ_eq_nz]

/-- Where PC still stands at the instruction, moving it by the length is moving it past the instruction. -/
theorem advance_eq_past {s t : State} {i : Instr} (pc : t.pc = s.pc) : t.advance i.length = past s t i := by
  rw [State.advance, past, pc, BitVec.ofNat_add, BitVec.ofNat_toNat, BitVec.setWidth_eq]

section Shapes

variable {op : Byte} {i : Instr}

theorem exec_readThen_past {o : Source} {e : Byte → State → State} {s : State} (run : exec i s = readThen o e s)
    (len : i.length = o.length) (pc : ∀ v t, (e v t).pc = t.pc) (off : OffPia s (o.deviceTouched s)) :
    exec i s = .next (past s (e (o.load s).1 (o.load s).2) i) := by
  rw [run, readThen, guarded_of_off off, ← len, advance_eq_past]
  exact (pc _ _).trans (load_sameCpu o s).pc

/-- An instruction that reads an operand, once its effect is known where the accesses left the flags alone. -/
theorem reads_of_readThen {o : Source} {e : Byte → State → State} {post : State → Byte → State → State}
    (first : (encode i).head? = some op) (len : i.length = o.length) (run : ∀ s, exec i s = readThen o e s)
    (pc : ∀ v t, (e v t).pc = t.pc) (effect : ∀ s v t, SameCpu s t → e v t = post s v t) : Reads op i o post := by
  refine ⟨first, fun s off => ?_⟩
  rw [exec_readThen_past (run s) len pc off, effect s _ _ (load_sameCpu o s)]

theorem reads_loadA {o : Source} (first : (encode i).head? = some op) (len : i.length = o.length)
    (run : ∀ s, exec i s = readThen o loadA s) :
    Reads op i o (fun s v t => { t with a := v, p := nz s.p v }) :=
  reads_of_readThen first len run loadA_pc fun _ v t h => by rw [loadA_eq_nz v t, h.p]

theorem reads_loadX {o : Source} (first : (encode i).head? = some op) (len : i.length = o.length)
    (run : ∀ s, exec i s = readThen o loadX s) :
    Reads op i o (fun s v t => { t with x := v, p := nz s.p v }) :=
  reads_of_readThen first len run loadX_pc fun _ v t h => by rw [loadX_eq_nz v t, h.p]

theorem reads_loadY {o : Source} (first : (encode i).head? = some op) (len : i.length = o.length)
    (run : ∀ s, exec i s = readThen o loadY s) :
    Reads op i o (fun s v t => { t with y := v, p := nz s.p v }) :=
  reads_of_readThen first len run loadY_pc fun _ v t h => by rw [loadY_eq_nz v t, h.p]

theorem stores_of_storeByte {m : MemMode} {v : State → Byte} (first : (encode i).head? = some op)
    (len : i.length = m.length) (run : ∀ s, exec i s = storeByte m (v s) s) : Stores op i m v := by
  refine ⟨first, fun s off => ?_⟩
  rw [run, storeByte, guarded_of_off off, ← len, advance_eq_past]
  exact ((address_sameCpu m s).trans (writeAt_sameCpu _ _ _)).pc

theorem computes_of_implied {f : State → State} (first : (encode i).head? = some op) (len : i.length = 1)
    (pc : ∀ s, (f s).pc = s.pc) (run : ∀ s, exec i s = implied (f s)) : Computes op i f := by
  refine ⟨first, fun s => ?_⟩
  rw [run, implied, ← len, advance_eq_past (pc s)]

end Shapes

end Sys2Proof.Machine
end

section
/-! The statements about loads, stores and transfers (41_load_store_transfer.md). -/

namespace Sys2Proof.Proofs

open Sys2Proof.Machine

/-- Settles O16: each form is a read of its mode's operand and the load of its register. -/
theorem loadsSetRegisterAndNZ : Obligations.LoadsSetRegisterAndNZ := by
  refine ⟨?ldaImm, ?ldaZp, ?ldaZpx, ?ldaAbs, ?ldaAbx, ?ldaAby, ?ldaIzx, ?ldaIzy, ?ldaIzp,
    ?ldxImm, ?ldxZp, ?ldxZpy, ?ldxAbs, ?ldxAby, ?ldyImm, ?ldyZp, ?ldyZpx, ?ldyAbs, ?ldyAbx⟩
  case ldaImm | ldaZp | ldaZpx | ldaAbs | ldaAbx | ldaAby | ldaIzx | ldaIzy | ldaIzp =>
    exact fun _ => reads_loadA rfl rfl fun _ => rfl
  case ldxImm | ldxZp | ldxZpy | ldxAbs | ldxAby => exact fun _ => reads_loadX rfl rfl fun _ => rfl
  case ldyImm | ldyZp | ldyZpx | ldyAbs | ldyAbx => exact fun _ => reads_loadY rfl rfl fun _ => rfl

/-- Settles O17: each form is a store of its register, or of zero, at its mode's address. -/
theorem storesWriteOneByte : Obligations.StoresWriteOneByte := by
  refine ⟨?staZp, ?staZpx, ?staAbs, ?staAbx, ?staAby, ?staIzx, ?staIzy, ?staIzp, ?stxZp, ?stxZpy, ?stxAbs,
    ?styZp, ?styZpx, ?styAbs, ?stzZp, ?stzZpx, ?stzAbs, ?stzAbx⟩
  all_goals exact fun _ => stores_of_storeByte rfl rfl fun _ => rfl

/-- Settles O18: TXS writes S alone, the others load their register with N and Z. -/
theorem transfersCopyRegisters : Obligations.TransfersCopyRegisters := by
  refine ⟨?tax, ?tay, ?tsx, ?txa, ?txs, ?tya⟩
  case txs => exact computes_of_implied rfl rfl (fun _ => rfl) fun _ => rfl
  case tax => exact computes_of_implied rfl rfl (fun _ => rfl) fun s => congrArg implied (loadX_eq_nz s.a s)
  case tsx => exact computes_of_implied rfl rfl (fun _ => rfl) fun s => congrArg implied (loadX_eq_nz s.sp s)
  case tay => exact computes_of_implied rfl rfl (fun _ => rfl) fun s => congrArg implied (loadY_eq_nz s.a s)
  case txa => exact computes_of_implied rfl rfl (fun _ => rfl) fun s => congrArg implied (loadA_eq_nz s.x s)
  case tya => exact computes_of_implied rfl rfl (fun _ => rfl) fun s => congrArg implied (loadA_eq_nz s.y s)

end Sys2Proof.Proofs
end

section
/-! SUPPORT. Subtraction and comparison as addition of the one's complement, the flags of a sum by number, the digits of
decimal mode, and what each effect of the arithmetic and logic instructions leaves after the operand's accesses
(42_arithmetic_logic.md R151 to R167). -/

namespace Sys2Proof.Machine

open Claims

theorem xor_ones (v : Byte) : v ^^^ 0xFF#8 = ~~~v := BitVec.xor_allOnes

theorem toInt_compl (v : Byte) : (~~~v).toInt = -v.toInt - 1 := by
  have := v.isLt
  rw [BitVec.toInt_eq_toNat_cond, BitVec.toInt_eq_toNat_cond, BitVec.toNat_not]
  split <;> split <;> omega

theorem toNat_borrow (c : Bool) : (!c).toNat = 1 - c.toNat := by cases c <;> rfl

/-! Binary addition and subtraction. -/

/-- Two addends of one sign and a sum of the other: the exact signed sum is out of range. -/
theorem add_overflow_eq (a m : Byte) (c : Bool) :
    ((a.msb == m.msb) && ((BitVec.ofNat 8 (a.toNat + m.toNat + c.toNat)).msb != a.msb)) =
      decide (a.toInt + m.toInt + (c.toNat : Int) < -128 ∨ 127 < a.toInt + m.toInt + (c.toNat : Int)) := by
  have := a.isLt
  have := m.isLt
  have := c.toNat_le
  rw [Bool.eq_iff_iff]
  simp only [BitVec.msb_eq_decide, BitVec.toInt_eq_toNat_cond, BitVec.toNat_ofNat, Bool.and_eq_true, beq_iff_eq,
    bne_iff_ne, ne_eq, decide_eq_decide, decide_eq_true_eq]
  split <;> split <;> omega

theorem addBinary_eq_adcBinary (s : State) (v : Byte) (t : State) :
    { t with a := (addBinary s.a v s.p).1, p := (addBinary s.a v s.p).2 } = adcBinary s v t := by
  simp only [addBinary, adcBinary, add_overflow_eq, setNZ_eq_nz]

/-- SBC adds the one's complement of its operand. -/
theorem subBinary_eq_addBinary (a m : Byte) (p : Flags) : subBinary a m p = addBinary a (~~~m) p := by
  have sign : (a.msb != m.msb) = (a.msb == (~~~m).msb) := by
    rw [BitVec.msb_not]
    cases a.msb <;> cases m.msb <;> rfl
  rw [subBinary, xor_ones, sign, addBinary]

/-- The difference with borrow is the sum with the one's complement, its carry the absence of a borrow. -/
theorem sbcBinary_eq_adcBinary (s : State) (v : Byte) (t : State) : sbcBinary s v t = adcBinary s (~~~v) t := by
  have := v.isLt
  have := s.p.c.toNat_le
  have wrapped : BitVec.ofInt 8 ((s.a.toNat : Int) - v.toNat - (!s.p.c).toNat) =
      BitVec.ofNat 8 (s.a.toNat + (~~~v).toNat + s.p.c.toNat) := by
    apply BitVec.eq_of_toNat_eq
    rw [BitVec.toNat_ofInt, BitVec.toNat_ofNat, BitVec.toNat_not, toNat_borrow]
    omega
  have signed : s.a.toInt - v.toInt - ((!s.p.c).toNat : Int) = s.a.toInt + (~~~v).toInt + (s.p.c.toNat : Int) := by
    rw [toInt_compl, toNat_borrow]
    omega
  have carry : v.toNat + (!s.p.c).toNat ≤ s.a.toNat ↔ 256 ≤ s.a.toNat + (~~~v).toNat + s.p.c.toNat := by
    rw [BitVec.toNat_not, toNat_borrow]
    omega
  simp only [sbcBinary, adcBinary, wrapped, signed, carry]

theorem subBinary_eq_sbcBinary (s : State) (v : Byte) (t : State) :
    { t with a := (subBinary s.a v s.p).1, p := (subBinary s.a v s.p).2 } = sbcBinary s v t := by
  rw [subBinary_eq_addBinary, sbcBinary_eq_adcBinary, addBinary_eq_adcBinary]

/-! Decimal addition and subtraction. -/

theorem bcdValid_iff (v : Byte) : bcdValid v = true ↔ IsBcd v := by simp [bcdValid]

theorem bcdValid_and_iff (a m : Byte) : (bcdValid a && bcdValid m) = true ↔ IsBcd a ∧ IsBcd m := by
  rw [Bool.and_eq_true, bcdValid_iff, bcdValid_iff]

theorem bcdValue_eq_dec (v : Byte) : bcdValue v = dec v := by rw [bcdValue, dec, Nat.mul_comm]

theorem bcdByte_eq_digits (r : Nat) : bcdByte r = digits r := by rw [bcdByte, digits, Nat.mul_comm]

theorem dec_lt {v : Byte} (h : IsBcd v) : dec v < 100 := by
  obtain ⟨tens, ones⟩ := h
  rw [dec]
  omega

theorem addDecimal_adcDecimal (s : State) (v : Byte) (t : State) (free : Bool) (k : Nat) :
    adcDecimal s v t
      { t with a := (addDecimal s.a v s.p free).1, p := (addDecimal s.a v s.p free).2, draws := k } := by
  refine ⟨free, k, ?_⟩
  simp only [addDecimal, bcdValue_eq_dec, bcdByte_eq_digits, setNZ_eq_nz]

/-- A negative difference borrows 100, which is the difference modulo 100. -/
theorem borrow_hundred {t : Int} {n : Nat} (small : n < 200) (shifted : t + 100 = n) :
    (if t < 0 then t + 100 else t).toNat = n % 100 := by
  split <;> omega

theorem subDecimal_sbcDecimal {s : State} {v : Byte} (ha : IsBcd s.a) (hv : IsBcd v) (t : State) (free : Bool)
    (k : Nat) :
    sbcDecimal s v t
      { t with a := (subDecimal s.a v s.p free).1, p := (subDecimal s.a v s.p free).2, draws := k } := by
  have := dec_lt ha
  have := dec_lt hv
  have := s.p.c.toNat_le
  have borrow := toNat_borrow s.p.c
  have shifted : (dec s.a : Int) - dec v - (1 - (s.p.c.toNat : Int)) + 100 =
      (100 + dec s.a - dec v - (!s.p.c).toNat : Nat) := by omega
  have carry : 0 ≤ (dec s.a : Int) - dec v - (1 - (s.p.c.toNat : Int)) ↔ dec v + (!s.p.c).toNat ≤ dec s.a := by
    omega
  refine ⟨free, k, ?_⟩
  simp only [subDecimal, bcdValue_eq_dec, bcdByte_eq_digits, setNZ_eq_nz, borrow_hundred (by omega) shifted, carry]

/-! The three branches of ADC and SBC. -/

section AddSub

variable {f : Byte → Byte → Flags → Byte × Flags} {g : Byte → Byte → Flags → Bool → Byte × Flags}

theorem addSub_pc (m : Byte) (s : State) : (addSub f g m s).pc = s.pc := by
  unfold addSub
  split
  · rfl
  · split <;> rfl

theorem addSub_binary {s : State} (m : Byte) (d : s.p.d = false) :
    addSub f g m s = { s with a := (f s.a m s.p).1, p := (f s.a m s.p).2 } := if_pos d

theorem addSub_decimal {s : State} {m : Byte} (d : s.p.d = true) (valid : IsBcd s.a ∧ IsBcd m) :
    addSub f g m s = { s with
      a := (g s.a m s.p (Config.freeBit s.draws)).1
      p := (g s.a m s.p (Config.freeBit s.draws)).2
      draws := s.draws + 1 } := by
  rw [addSub, if_neg (by simp [d]), if_pos ((bcdValid_and_iff _ _).2 valid)]

theorem addSub_open {s : State} {m : Byte} (d : s.p.d = true) (invalid : ¬ (IsBcd s.a ∧ IsBcd m)) :
    openResult s m s (addSub f g m s) := by
  rw [addSub, if_neg (by simp [d]), if_neg (mt (bcdValid_and_iff _ _).1 invalid)]
  exact ⟨_, _, _, _, _, _, rfl⟩

end AddSub

/-! The effects, with the state before the operand's accesses and the state after them. -/

section Effects

variable {s t : State} {v : Byte}

theorem adc_eq_adcBinary (h : SameCpu s t) (d : s.p.d = false) : adc v t = adcBinary s v t := by
  rw [adc, addSub_binary v (by rw [h.p, d]), h.a, h.p, addBinary_eq_adcBinary]

theorem sbc_eq_sbcBinary (h : SameCpu s t) (d : s.p.d = false) : sbc v t = sbcBinary s v t := by
  rw [sbc, addSub_binary v (by rw [h.p, d]), h.a, h.p, subBinary_eq_sbcBinary]

theorem adc_adcDecimal (h : SameCpu s t) (pre : s.p.d = true ∧ IsBcd s.a ∧ IsBcd v) :
    adcDecimal s v t (adc v t) := by
  obtain ⟨d, valid⟩ := pre
  rw [adc, addSub_decimal (by rw [h.p, d]) (by rwa [h.a]), h.a, h.p]
  exact addDecimal_adcDecimal s v t _ _

theorem sbc_sbcDecimal (h : SameCpu s t) (pre : s.p.d = true ∧ IsBcd s.a ∧ IsBcd v) :
    sbcDecimal s v t (sbc v t) := by
  obtain ⟨d, ha, hv⟩ := pre
  rw [sbc, addSub_decimal (by rw [h.p, d]) (by rw [h.a]; exact ⟨ha, hv⟩), h.a, h.p]
  exact subDecimal_sbcDecimal ha hv t _ _

theorem addSub_openResult {f : Byte → Byte → Flags → Byte × Flags}
    {g : Byte → Byte → Flags → Bool → Byte × Flags} (h : SameCpu s t)
    (pre : s.p.d = true ∧ ¬ (IsBcd s.a ∧ IsBcd v)) : openResult s v t (addSub f g v t) := by
  obtain ⟨d, invalid⟩ := pre
  have opened : openResult t v t (addSub f g v t) := addSub_open (by rw [h.p, d]) (by rwa [h.a])
  rwa [openResult, h.p] at opened

end Effects

/-! Compares and bit tests. -/

/-- The sum of a compare is the difference, its carry the absence of a borrow. -/
theorem compareFlags_eq (r m : Byte) (p : Flags) :
    compareFlags r m p = { p with
      n := decide (128 ≤ (r - m).toNat), z := decide (r = m), c := decide (m.toNat ≤ r.toNat) } := by
  have := m.isLt
  have difference : BitVec.ofNat 8 (r.toNat + (m ^^^ 0xFF#8).toNat + 1) = r - m := by
    apply BitVec.eq_of_toNat_eq
    rw [BitVec.toNat_ofNat, xor_ones, BitVec.toNat_not, BitVec.toNat_sub]
    omega
  have carry : 256 ≤ r.toNat + (m ^^^ 0xFF#8).toNat + 1 ↔ m.toNat ≤ r.toNat := by
    rw [xor_ones, BitVec.toNat_not]
    omega
  have zero : r - m = 0#8 ↔ r = m := sub_eq_zero
  simp only [compareFlags, Flags.setNZ, difference, carry, zero, BitVec.msb_eq_decide, Nat.reduceSub, Nat.reducePow]

theorem bitTestFlags_eq (a m : Byte) (p : Flags) :
    bitTestFlags a m p = { p with
      n := decide (m.toNat / 128 = 1), v := decide (m.toNat / 64 % 2 = 1), z := decide (a &&& m = 0#8) } := by
  have top : m.toNat / 128 % 2 = 1 ↔ m.toNat / 128 = 1 := by
    have := m.isLt
    omega
  simp only [bitTestFlags, bit_eq_place, Nat.reducePow, top]

theorem testReset_eq (a v : Byte) (p : Flags) :
    testReset a v p = (v &&& ~~~a, { p with z := decide (a &&& v = 0#8) }) := by
  rw [testReset, xor_ones, testZ]

/-! The shapes of the instructions. -/

section Shapes

variable {op : Byte} {i : Instr} {o : Source} {e : Byte → State → State}

theorem readsIf_of_readThen {pre : State → Byte → Prop} {post : State → Byte → State → State}
    (first : (encode i).head? = some op) (len : i.length = o.length) (run : ∀ s, exec i s = readThen o e s)
    (pc : ∀ v t, (e v t).pc = t.pc) (effect : ∀ {s v t}, SameCpu s t → pre s v → e v t = post s v t) :
    ReadsIf op i o pre post := by
  refine ⟨first, fun s off holds => ?_⟩
  rw [exec_readThen_past (run s) len pc off, effect (load_sameCpu o s) holds]

theorem readsOpen_of_readThen {pre : State → Byte → Prop} {rel : State → Byte → State → State → Prop}
    (first : (encode i).head? = some op) (len : i.length = o.length) (run : ∀ s, exec i s = readThen o e s)
    (pc : ∀ v t, (e v t).pc = t.pc) (effect : ∀ {s v t}, SameCpu s t → pre s v → rel s v t (e v t)) :
    ReadsOpen op i o pre rel :=
  ⟨first, fun s off holds => ⟨_, effect (load_sameCpu o s) holds, exec_readThen_past (run s) len pc off⟩⟩

/-- AND, ORA and EOR load A with a combination of A and the operand. -/
theorem reads_combineA (f : Byte → Byte → Byte) (first : (encode i).head? = some op) (len : i.length = o.length)
    (run : ∀ s, exec i s = readThen o (fun v t => loadA (f t.a v) t) s) :
    Reads op i o (fun s v t => { t with a := f s.a v, p := nz s.p (f s.a v) }) :=
  reads_of_readThen first len run (fun _ _ => rfl) fun s v t h => by rw [loadA_eq_nz, h.a, h.p]

/-- CMP, CPX and CPY compare a register that the operand's accesses leave alone. -/
theorem reads_compare {r : State → Byte} (kept : ∀ {s t}, SameCpu s t → r t = r s)
    (first : (encode i).head? = some op) (len : i.length = o.length)
    (run : ∀ s, exec i s = readThen o (fun v t => { t with p := compareFlags (r t) v t.p }) s) :
    Reads op i o (fun s v t => { t with p := { s.p with
      n := decide (128 ≤ (r s - v).toNat), z := decide (r s = v), c := decide (v.toNat ≤ (r s).toNat) } }) :=
  reads_of_readThen first len run (fun _ _ => rfl) fun s v t h => by rw [compareFlags_eq, kept h, h.p]

theorem reads_bitTest (first : (encode i).head? = some op) (len : i.length = o.length)
    (run : ∀ s, exec i s = readThen o bitTest s) :
    Reads op i o (fun s v t => { t with p := { s.p with
      n := decide (v.toNat / 128 = 1), v := decide (v.toNat / 64 % 2 = 1), z := decide (s.a &&& v = 0#8) } }) :=
  reads_of_readThen first len run (fun _ _ => rfl) fun s v t h => by rw [bitTest, bitTestFlags_eq, h.a, h.p]

/-- A read-modify-write, once its computation is known on the flags, which its accesses leave alone. -/
theorem modifies_of_modify {m : MemMode} {f : State → Byte → Flags → Byte × Flags} {g : State → Byte → Byte × Flags}
    (first : (encode i).head? = some op) (len : i.length = m.length) (run : ∀ s, exec i s = modify m (f s) s)
    (computation : ∀ s v, f s v s.p = g s v) : Modifies op i m g := by
  refine ⟨first, fun s off => ?_⟩
  have before : SameCpu s (readAt (m.address s).1 (m.address s).2).2 :=
    (address_sameCpu m s).trans (readAt_sameCpu _ _)
  have pc : (modifyAt (m.address s).1 (f s) (m.address s).2).pc = s.pc := (before.trans (writeAt_sameCpu _ _ _)).pc
  rw [run, modify, guarded_of_off off, ← len, advance_eq_past pc]
  simp only [modifyAt, before.p, computation]

end Shapes

end Sys2Proof.Machine
end

section
/-! The statements about arithmetic and logic (42_arithmetic_logic.md). -/

namespace Sys2Proof.Proofs

open Sys2Proof.Machine

/-- Settles O19: each form is a read of its mode's operand and the binary branch of ADC. -/
theorem adcAddsInBinary : Obligations.AdcAddsInBinary := by
  refine ⟨?imm, ?zp, ?zpx, ?abs, ?abx, ?aby, ?izx, ?izy, ?izp⟩
  all_goals exact fun _ => readsIf_of_readThen rfl rfl (fun _ => rfl) addSub_pc adc_eq_adcBinary

/-- Settles O20: subtraction is addition of the one's complement. -/
theorem sbcSubtractsInBinary : Obligations.SbcSubtractsInBinary := by
  refine ⟨?imm, ?zp, ?zpx, ?abs, ?abx, ?aby, ?izx, ?izy, ?izp⟩
  all_goals exact fun _ => readsIf_of_readThen rfl rfl (fun _ => rfl) addSub_pc sbc_eq_sbcBinary

/-- Settles O21: the decimal branch on valid digits, its V drawn. -/
theorem decimalAdcAndSbcGiveDigits : Obligations.DecimalAdcAndSbcGiveDigits := by
  refine ⟨?adcImm, ?adcZp, ?adcZpx, ?adcAbs, ?adcAbx, ?adcAby, ?adcIzx, ?adcIzy, ?adcIzp,
    ?sbcImm, ?sbcZp, ?sbcZpx, ?sbcAbs, ?sbcAbx, ?sbcAby, ?sbcIzx, ?sbcIzy, ?sbcIzp⟩
  case adcImm | adcZp | adcZpx | adcAbs | adcAbx | adcAby | adcIzx | adcIzy | adcIzp =>
    exact fun _ => readsOpen_of_readThen rfl rfl (fun _ => rfl) addSub_pc adc_adcDecimal
  case sbcImm | sbcZp | sbcZpx | sbcAbs | sbcAbx | sbcAby | sbcIzx | sbcIzy | sbcIzp =>
    exact fun _ => readsOpen_of_readThen rfl rfl (fun _ => rfl) addSub_pc sbc_sbcDecimal

/-- Settles O22: the open branch, which is the same for ADC and SBC. -/
theorem nonDecimalDigitsLeaveOnlyTheResultOpen : Obligations.NonDecimalDigitsLeaveOnlyTheResultOpen := by
  refine ⟨?adcImm, ?adcZp, ?adcZpx, ?adcAbs, ?adcAbx, ?adcAby, ?adcIzx, ?adcIzy, ?adcIzp,
    ?sbcImm, ?sbcZp, ?sbcZpx, ?sbcAbs, ?sbcAbx, ?sbcAby, ?sbcIzx, ?sbcIzy, ?sbcIzp⟩
  all_goals exact fun _ => readsOpen_of_readThen rfl rfl (fun _ => rfl) addSub_pc addSub_openResult

/-- Settles O23: each form loads A with its combination of A and the operand. -/
theorem logicCombinesAccumulatorAndOperand : Obligations.LogicCombinesAccumulatorAndOperand := by
  refine ⟨?andImm, ?andZp, ?andZpx, ?andAbs, ?andAbx, ?andAby, ?andIzx, ?andIzy, ?andIzp,
    ?oraImm, ?oraZp, ?oraZpx, ?oraAbs, ?oraAbx, ?oraAby, ?oraIzx, ?oraIzy, ?oraIzp,
    ?eorImm, ?eorZp, ?eorZpx, ?eorAbs, ?eorAbx, ?eorAby, ?eorIzx, ?eorIzy, ?eorIzp⟩
  case andImm | andZp | andZpx | andAbs | andAbx | andAby | andIzx | andIzy | andIzp =>
    exact fun _ => reads_combineA (· &&& ·) rfl rfl fun _ => rfl
  case oraImm | oraZp | oraZpx | oraAbs | oraAbx | oraAby | oraIzx | oraIzy | oraIzp =>
    exact fun _ => reads_combineA (· ||| ·) rfl rfl fun _ => rfl
  case eorImm | eorZp | eorZpx | eorAbs | eorAbx | eorAby | eorIzx | eorIzy | eorIzp =>
    exact fun _ => reads_combineA (· ^^^ ·) rfl rfl fun _ => rfl

/-- Settles O24, register by register. -/
theorem comparesSetNZC : Obligations.ComparesSetNZC := by
  refine ⟨?cmpImm, ?cmpZp, ?cmpZpx, ?cmpAbs, ?cmpAbx, ?cmpAby, ?cmpIzx, ?cmpIzy, ?cmpIzp,
    ?cpxImm, ?cpxZp, ?cpxAbs, ?cpyImm, ?cpyZp, ?cpyAbs⟩
  case cmpImm | cmpZp | cmpZpx | cmpAbs | cmpAbx | cmpAby | cmpIzx | cmpIzy | cmpIzp =>
    exact fun _ => reads_compare SameCpu.a rfl rfl fun _ => rfl
  case cpxImm | cpxZp | cpxAbs => exact fun _ => reads_compare SameCpu.x rfl rfl fun _ => rfl
  case cpyImm | cpyZp | cpyAbs => exact fun _ => reads_compare SameCpu.y rfl rfl fun _ => rfl

/-- Settles O25: both forms read the operand and test its bits. -/
theorem bitTestsOperandBits : Obligations.BitTestsOperandBits :=
  ⟨fun _ => reads_bitTest rfl rfl fun _ => rfl, fun _ => reads_bitTest rfl rfl fun _ => rfl⟩

/-- Settles O26: each form is a read-modify-write that tests the byte read and sets or resets the bits of A in it. -/
theorem tsbTrbSetAndResetBits : Obligations.TsbTrbSetAndResetBits := by
  refine ⟨?tsbZp, ?tsbAbs, ?trbZp, ?trbAbs⟩
  case tsbZp | tsbAbs => exact fun _ => modifies_of_modify rfl rfl (fun _ => rfl) fun _ _ => rfl
  case trbZp | trbAbs =>
    exact fun _ => modifies_of_modify rfl rfl (fun _ => rfl) fun s v => testReset_eq s.a v s.p

end Sys2Proof.Proofs
end

section
/-! SUPPORT. The computations of the shifts, rotates, increments and decrements by number: the old C enters at one end of
the byte by addition, the bit shifted out is a bound or a parity, and a decrement adds 255 (43_shift_incdec.md R181 to
R196). -/

namespace Sys2Proof

theorem bit_seven (v : Byte) : bit v 7 = decide (128 ≤ v.toNat) := by
  have := v.isLt
  rw [bit_eq_place, decide_eq_decide]
  omega

theorem bit_zero (v : Byte) : bit v 0 = decide (v.toNat % 2 = 1) := by
  rw [bit_eq_place, pow_zero, Nat.div_one]

theorem toNat_bitAt (x : Bool) {k : Nat} (low : k < 8) : (bitAt x k).toNat = 2 ^ k * x.toNat := by
  have fits : 2 ^ k < 2 ^ 8 := Nat.pow_lt_pow_right (by decide) low
  cases x
  · rfl
  · rw [bitAt, if_pos rfl, BitVec.toNat_shiftLeft, BitVec.toNat_ofNat, Nat.one_mod, Nat.one_shiftLeft,
      Nat.mod_eq_of_lt fits, Bool.toNat_true, mul_one]

theorem bitAt_false (k : Nat) : bitAt false k = 0#8 := rfl

/-- The vacated bit 0 is free for the bit that enters. -/
theorem shiftLeft_or_bitAt (v : Byte) (c : Bool) :
    v <<< 1 ||| bitAt c 0 = BitVec.ofNat 8 (2 * v.toNat + c.toNat) := by
  have enters : c.toNat < 2 ^ 1 := c.toNat_lt
  have shifted : (v <<< 1).toNat = 2 ^ 1 * (v.toNat % 128) := by
    rw [BitVec.toNat_shiftLeft, Nat.shiftLeft_eq]
    omega
  apply BitVec.eq_of_toNat_eq
  rw [BitVec.toNat_or, shifted, toNat_bitAt c (by decide), pow_zero, one_mul,
    ← Nat.two_pow_add_eq_or_of_lt enters, BitVec.toNat_ofNat]
  omega

/-- The vacated bit 7 is free for the bit that enters. -/
theorem ushiftRight_or_bitAt (v : Byte) (c : Bool) :
    v >>> 1 ||| bitAt c 7 = BitVec.ofNat 8 (v.toNat / 2 + 128 * c.toNat) := by
  have := c.toNat_le
  have := v.isLt
  have remains : v.toNat / 2 < 2 ^ 7 := by omega
  apply BitVec.eq_of_toNat_eq
  rw [BitVec.toNat_or, BitVec.toNat_ushiftRight, Nat.shiftRight_eq_div_pow, pow_one, toNat_bitAt c (by decide),
    Nat.or_comm, ← Nat.two_pow_add_eq_or_of_lt remains, BitVec.toNat_ofNat]
  omega

/-- Where no set bit enters, the shift alone is left. -/
theorem shiftLeft_one (v : Byte) : v <<< 1 = BitVec.ofNat 8 (2 * v.toNat) := by
  have h := shiftLeft_or_bitAt v false
  rwa [bitAt_false, BitVec.or_zero] at h

theorem ushiftRight_one (v : Byte) : v >>> 1 = BitVec.ofNat 8 (v.toNat / 2) := by
  have h := ushiftRight_or_bitAt v false
  rwa [bitAt_false, BitVec.or_zero] at h

theorem byte_add_ofNat (v : Byte) (k : Nat) : v + BitVec.ofNat 8 k = BitVec.ofNat 8 (v.toNat + k) := by
  rw [BitVec.ofNat_add, BitVec.ofNat_toNat, BitVec.setWidth_eq]

namespace Machine

open Claims

theorem shiftLeft_eq_asl (s : State) (v : Byte) : shiftLeft v s.p = asl s v := by
  simp only [shiftLeft, asl, shiftLeft_one, setNZ_eq_nz, bit_seven]

/-- Bit 7 is vacated, so N is clear whatever `setNZ` would give. -/
theorem shiftRight_eq_lsr (s : State) (v : Byte) : shiftRight v s.p = lsr s v := by
  have flags : shiftRight v s.p =
      (v >>> 1, { Flags.setNZ s.p (v >>> 1) with n := false, c := bit v 0 }) := rfl
  simp only [flags, lsr, ushiftRight_one, setNZ_eq_nz, bit_zero]

theorem rotateLeft_eq_rol (s : State) (v : Byte) : rotateLeft v s.p = rol s v := by
  simp only [rotateLeft, rol, shiftLeft_or_bitAt, setNZ_eq_nz, bit_seven]

theorem rotateRight_eq_ror (s : State) (v : Byte) : rotateRight v s.p = ror s v := by
  simp only [rotateRight, ror, ushiftRight_or_bitAt, setNZ_eq_nz, bit_zero]

theorem increment_eq_inc (s : State) (v : Byte) : increment v s.p = inc s v := by
  rw [increment, byte_add_ofNat, setNZ_eq_nz, inc]

theorem decrement_eq_dec1 (s : State) (v : Byte) : decrement v s.p = dec1 s v := by
  have minus : v - 1#8 = v + 255#8 := sub_eq_add_neg v 1#8
  rw [decrement, minus, byte_add_ofNat, setNZ_eq_nz, dec1]

/-! The instructions that apply a computation `f` on a byte and the flags, known by number as `g`, to a register. -/

section Shapes

variable {op : Byte} {i : Instr} {f : Byte → Flags → Byte × Flags} {g : State → Byte → Byte × Flags}

theorem computes_of_onA (first : (encode i).head? = some op) (len : i.length = 1)
    (run : ∀ s, exec i s = implied (onA f s)) (computation : ∀ s v, f v s.p = g s v) :
    Computes op i fun s => { s with a := (g s s.a).1, p := (g s s.a).2 } :=
  computes_of_implied first len (fun _ => rfl) fun s => by rw [run, onA, computation]

theorem computes_of_onX (first : (encode i).head? = some op) (len : i.length = 1)
    (run : ∀ s, exec i s = implied (onX f s)) (computation : ∀ s v, f v s.p = g s v) :
    Computes op i fun s => { s with x := (g s s.x).1, p := (g s s.x).2 } :=
  computes_of_implied first len (fun _ => rfl) fun s => by rw [run, onX, computation]

theorem computes_of_onY (first : (encode i).head? = some op) (len : i.length = 1)
    (run : ∀ s, exec i s = implied (onY f s)) (computation : ∀ s v, f v s.p = g s v) :
    Computes op i fun s => { s with y := (g s s.y).1, p := (g s s.y).2 } :=
  computes_of_implied first len (fun _ => rfl) fun s => by rw [run, onY, computation]

end Shapes

end Machine
end Sys2Proof
end

section
/-! The statements about shifts, increments and decrements (43_shift_incdec.md). -/

namespace Sys2Proof.Proofs

open Sys2Proof.Machine

/-- Settles O27: each form is a read-modify-write of its mode's address by one of the four computations. -/
theorem memoryShiftsMoveOneBit : Obligations.MemoryShiftsMoveOneBit := by
  refine ⟨?aslZp, ?aslZpx, ?aslAbs, ?aslAbx, ?lsrZp, ?lsrZpx, ?lsrAbs, ?lsrAbx,
    ?rolZp, ?rolZpx, ?rolAbs, ?rolAbx, ?rorZp, ?rorZpx, ?rorAbs, ?rorAbx⟩
  case aslZp | aslZpx | aslAbs | aslAbx =>
    exact fun _ => modifies_of_modify rfl rfl (fun _ => rfl) shiftLeft_eq_asl
  case lsrZp | lsrZpx | lsrAbs | lsrAbx =>
    exact fun _ => modifies_of_modify rfl rfl (fun _ => rfl) shiftRight_eq_lsr
  case rolZp | rolZpx | rolAbs | rolAbx =>
    exact fun _ => modifies_of_modify rfl rfl (fun _ => rfl) rotateLeft_eq_rol
  case rorZp | rorZpx | rorAbs | rorAbx =>
    exact fun _ => modifies_of_modify rfl rfl (fun _ => rfl) rotateRight_eq_ror

/-- Settles O28: each form is its memory form's computation on A. -/
theorem accumulatorShiftsMoveOneBit : Obligations.AccumulatorShiftsMoveOneBit := by
  refine ⟨?asla, ?lsra, ?rola, ?rora⟩
  case asla => exact computes_of_onA rfl rfl (fun _ => rfl) shiftLeft_eq_asl
  case lsra => exact computes_of_onA rfl rfl (fun _ => rfl) shiftRight_eq_lsr
  case rola => exact computes_of_onA rfl rfl (fun _ => rfl) rotateLeft_eq_rol
  case rora => exact computes_of_onA rfl rfl (fun _ => rfl) rotateRight_eq_ror

/-- Settles O29: each form is a read-modify-write whose computation adds 1 or 255 to the byte. -/
theorem memoryIncrementsWrap : Obligations.MemoryIncrementsWrap := by
  refine ⟨?incZp, ?incZpx, ?incAbs, ?incAbx, ?decZp, ?decZpx, ?decAbs, ?decAbx⟩
  case incZp | incZpx | incAbs | incAbx =>
    exact fun _ => modifies_of_modify rfl rfl (fun _ => rfl) increment_eq_inc
  case decZp | decZpx | decAbs | decAbx =>
    exact fun _ => modifies_of_modify rfl rfl (fun _ => rfl) decrement_eq_dec1

/-- Settles O30: each form is the computation of INC or DEC on its register. -/
theorem registerIncrementsWrap : Obligations.RegisterIncrementsWrap := by
  refine ⟨?ina, ?dea, ?inx, ?iny, ?dex, ?dey⟩
  case ina => exact computes_of_onA rfl rfl (fun _ => rfl) increment_eq_inc
  case dea => exact computes_of_onA rfl rfl (fun _ => rfl) decrement_eq_dec1
  case inx => exact computes_of_onX rfl rfl (fun _ => rfl) increment_eq_inc
  case iny => exact computes_of_onY rfl rfl (fun _ => rfl) increment_eq_inc
  case dex => exact computes_of_onX rfl rfl (fun _ => rfl) decrement_eq_dec1
  case dey => exact computes_of_onY rfl rfl (fun _ => rfl) decrement_eq_dec1

end Sys2Proof.Proofs
end

section
/-! SUPPORT. The rules of branches, jumps, subroutine calls and returns: the target of a branch as a signed sum, the
jump through a pointer, and the word a call leaves on the stack (44_branch_jump.md R210, R220, R224, R225). -/

namespace Sys2Proof.Machine

open Claims

/-- The offset is added as a signed number (40_addressing_modes.md R110). -/
theorem branchTarget_eq_ofInt (pc : Word) (a : Byte) :
    branchTarget pc a = BitVec.ofInt 16 ((pc.toNat : Int) + 2 + a.toInt) := by
  have signed : sext a = BitVec.ofInt 16 a.toInt := rfl
  rw [branchTarget, signed, BitVec.ofInt_add, BitVec.ofInt_add, BitVec.ofInt_natCast, BitVec.ofNat_toNat,
    BitVec.setWidth_eq]
  rfl

/-- A branch, once its condition is known as the flag test of its form. -/
theorem branches_of_branchIf {op : Byte} {i : Byte → Instr} {test : State → Bool} {cond : State → Prop}
    (bytes : ∀ a, encode (i a) = [op, a]) (run : ∀ a s, exec (i a) s = branchIf (test s) a s)
    (tested : ∀ s, test s = true ↔ cond s) : Branches op i cond := by
  refine fun a => ⟨bytes a, fun s => ⟨fun taken => ?_, fun untaken => ?_⟩⟩
  · rw [run, branchIf, if_pos ((tested s).2 taken), branchTarget_eq_ofInt]
  · rw [run, branchIf, if_neg (mt (tested s).1 untaken), State.advance, BitVec.ofNat_add, BitVec.ofNat_toNat,
      BitVec.setWidth_eq]

/-! JMP through a pointer. -/

/-- Whatever answers the two reads, they leave the registers and flags alone. -/
theorem jumpVia_registers {p : Word} {s : State} (off : OffPia s [p, p + 1#16]) :
    ∃ t, jumpVia p s = .next t ∧ t.a = s.a ∧ t.x = s.x ∧ t.y = s.y ∧ t.sp = s.sp ∧ t.p = s.p := by
  have same := readWord_sameCpu p s
  exact ⟨_, guarded_of_off off, same.a, same.x, same.y, same.sp, same.p⟩

theorem offPia_pair {s : State} {a b : Word} (ha : IsMemory s a) (hb : IsMemory s b) : OffPia s [a, b] := by
  simp [OffPia, isPia_of_memory ha, isPia_of_memory hb]

theorem jumpVia_memory {p : Word} {s : State} (h : NoDma s) (lo : IsMemory s p) (hi : IsMemory s (p + 1#16)) :
    jumpVia p s = .next { s with pc := wordOf (s.peek (p + 1#16)) (s.peek p) } := by
  rw [jumpVia, readWord_memory h lo hi]
  exact guarded_of_off (offPia_pair lo hi)

theorem exec_jmpInd (nn : Word) (s : State) : exec (.jmpInd nn) s = jumpVia nn s := rfl

theorem exec_jmpIax (nn : Word) (s : State) :
    exec (.jmpIax nn) s = jumpVia (BitVec.ofNat 16 (nn.toNat + s.x.toNat)) s :=
  congrArg (jumpVia · s) (add_zext nn s.x)

/-! Two pushes and two pulls. -/

theorem byte_sub_one_sub_one (v : Byte) : v - 1#8 - 1#8 = v - 2#8 := by bv_omega

theorem byte_add_one_add_one (v : Byte) : v + 1#8 + 1#8 = v + 2#8 := by bv_omega

theorem pushAddrs_two (sp : Byte) : pushAddrs sp 2 = [stackAddr sp, stackAddr (sp - 1#8)] := rfl

theorem pullAddrs_two (sp : Byte) : pullAddrs sp 2 = [stackAddr (sp + 1#8), stackAddr (sp + 2#8)] := by
  simp [pullAddrs, byte_add_one_add_one]

/-- What a pushed word leaves of the registers, whatever answers its accesses. -/
theorem pushWord_registers (w : Word) (s : State) :
    (pushWord w s).sp = s.sp - 2#8 ∧ (pushWord w s).a = s.a ∧ (pushWord w s).x = s.x ∧
      (pushWord w s).y = s.y ∧ (pushWord w s).p = s.p := by
  simp [pushWord, push, byte_sub_one_sub_one]

/-- What a pulled word leaves of the registers, whatever answers its accesses. -/
theorem pullWord_registers (s : State) :
    (pullWord s).2.sp = s.sp + 2#8 ∧ (pullWord s).2.a = s.a ∧ (pullWord s).2.x = s.x ∧
      (pullWord s).2.y = s.y ∧ (pullWord s).2.p = s.p := by
  simp [pullWord, pull, byte_add_one_add_one]

/-- The stack addresses and the pushed bytes of `pushWord_ram` by number. -/
theorem pushWord_ram_place {s : State} {w : Word} (h : NoDma s) (hi : IsRam s (stackAddr s.sp))
    (lo : IsRam s (stackAddr (s.sp - 1#8))) :
    pushWord w s = { s with
      sp := s.sp - 2#8
      trace := s.trace ++ [BusEvent.write (stackAddr s.sp) (BitVec.ofNat 8 (w.toNat / 256)),
        BusEvent.write (stackAddr (s.sp - 1#8)) (BitVec.ofNat 8 w.toNat)]
      mem := Memory.write (Memory.write s.mem (256 + s.sp.toNat) (BitVec.ofNat 8 (w.toNat / 256)))
        (256 + (s.sp.toNat + 255) % 256) (BitVec.ofNat 8 w.toNat) } := by
  have down : (s.sp - 1#8).toNat = (s.sp.toNat + 255) % 256 := by bv_omega
  rw [pushWord_ram h hi lo]
  simp only [hiByte_eq, loByte_eq, stackAddr_toNat, down, byte_sub_one_sub_one, List.append_assoc,
    List.cons_append, List.nil_append]

/-- The bytes of the word pushed to RAM lie on the stack; the second push does not reach the first. -/
theorem pushWord_ram_peek {s : State} {w : Word} (h : NoDma s) (hi : IsRam s (stackAddr s.sp))
    (lo : IsRam s (stackAddr (s.sp - 1#8))) :
    (pushWord w s).peek (stackAddr s.sp) = hiByte w ∧
      (pushWord w s).peek (stackAddr (s.sp - 1#8)) = loByte w := by
  have apart : (stackAddr s.sp).toNat ≠ (stackAddr (s.sp - 1#8)).toNat := by
    rw [stackAddr_toNat, stackAddr_toNat]
    bv_omega
  rw [pushWord_ram h hi lo]
  exact ⟨(Memory.read_write_ne _ _ apart).trans (Memory.read_write_self _ _ _), Memory.read_write_self _ _ _⟩

theorem pushWord_ram_noDma {s : State} {w : Word} (h : NoDma s) (hi : IsRam s (stackAddr s.sp))
    (lo : IsRam s (stackAddr (s.sp - 1#8))) : NoDma (pushWord w s) := by
  rw [pushWord_ram h hi lo]
  exact h

theorem pushWord_platform (w : Word) (s : State) : (pushWord w s).platform = s.platform := by
  simp [pushWord, push]

/-! JSR and RTS. -/

/-- Off the PIA a call pushes the address of its last byte (44_branch_jump.md R224). -/
theorem exec_jsr_offPia {nn : Word} {s : State} (off : OffPia s [stackAddr s.sp, stackAddr (s.sp - 1#8)]) :
    exec (.jsr nn) s = .next { pushWord (s.pc + 2#16) s with pc := nn } := guarded_of_off off

/-- Off the PIA a return goes one past the pulled word (44_branch_jump.md R225). -/
theorem exec_rts_offPia {s : State} (off : OffPia s [stackAddr (s.sp + 1#8), stackAddr (s.sp + 2#8)]) :
    exec .rts s = .next { (pullWord s).2 with pc := (pullWord s).1 + 1#16 } := by
  rw [← pullAddrs_two] at off
  exact guarded_of_off off

theorem exec_rts_memory {s : State} (h : NoDma s) (lo : IsMemory s (stackAddr (s.sp + 1#8)))
    (hi : IsMemory s (stackAddr (s.sp + 2#8))) :
    exec .rts s = .next { s with
      sp := s.sp + 2#8
      pc := wordOf (s.peek (stackAddr (s.sp + 2#8))) (s.peek (stackAddr (s.sp + 1#8))) + 1#16 } := by
  have pulled := pullWord_memory h lo (by rwa [byte_add_one_add_one])
  rw [exec_rts_offPia (offPia_pair lo hi), pulled, byte_add_one_add_one]

/-- A return pulls the word just pushed to RAM, and S is as before the pushes. -/
theorem exec_rts_pushWord_ram {s : State} {w pc : Word} (h : NoDma s) (hi : IsRam s (stackAddr s.sp))
    (lo : IsRam s (stackAddr (s.sp - 1#8))) :
    exec .rts { pushWord w s with pc := pc } = .next { pushWord w s with sp := s.sp, pc := w + 1#16 } := by
  obtain ⟨sp, -⟩ := pushWord_registers w s
  obtain ⟨peekHi, peekLo⟩ := pushWord_ram_peek (w := w) h hi lo
  have upOne : (pushWord w s).sp + 1#8 = s.sp - 1#8 := by
    rw [sp]
    bv_omega
  have upTwo : (pushWord w s).sp + 2#8 = s.sp := by
    rw [sp]
    exact BitVec.sub_add_cancel _ _
  have memory {a : Word} (ram : IsRam s a) : IsMemory (pushWord w s) a := by
    rw [IsMemory, pushWord_platform]
    exact .inl ram
  have pulled := exec_rts_memory (s := { pushWord w s with pc := pc }) (pushWord_ram_noDma h hi lo)
    (upOne ▸ memory lo) (upTwo ▸ memory hi)
  have word : wordOf (State.peek { pushWord w s with pc := pc } (stackAddr s.sp))
      (State.peek { pushWord w s with pc := pc } (stackAddr (s.sp - 1#8))) = w :=
    (congrArg₂ wordOf peekHi peekLo).trans (wordOf_bytes w)
  rw [pulled]
  simp only [upOne, upTwo, word]

end Sys2Proof.Machine
end

section
/-! The statements about branches, jumps and subroutines (44_branch_jump.md). -/

namespace Sys2Proof.Proofs

open Sys2Proof.Machine

/-- Settles O31: each form tests its flag, or the flag's complement, and BRA tests nothing. -/
theorem branchesGoToNextPlusOffset : Obligations.BranchesGoToNextPlusOffset := by
  refine ⟨?bcc, ?bcs, ?beq, ?bmi, ?bne, ?bpl, ?bvc, ?bvs, ?bra⟩
  case bcs | beq | bmi | bvs =>
    exact branches_of_branchIf (fun _ => rfl) (fun _ _ => rfl) fun _ => Iff.rfl
  case bcc | bne | bpl | bvc =>
    exact branches_of_branchIf (fun _ => rfl) (fun _ _ => rfl) fun _ => .of_eq (Bool.not_eq_true' _)
  case bra =>
    exact branches_of_branchIf (fun _ => rfl) (fun _ _ => rfl) fun _ => iff_of_true rfl trivial

/-- Settles O32: both indirect forms are a jump through a pointer, the indexed one through the sum with X. -/
theorem jumpsLoadPc : Obligations.JumpsLoadPc := by
  refine ⟨fun nn s => ⟨rfl, rfl⟩, fun nn s => ⟨rfl, ?ind⟩, fun nn s => ⟨rfl, ?iax⟩⟩
  case ind =>
    rw [exec_jmpInd]
    exact ⟨jumpVia_registers, jumpVia_memory⟩
  case iax =>
    rw [exec_jmpIax]
    exact ⟨jumpVia_registers, jumpVia_memory⟩

/-- Settles O33: the pushed word is pc0 + 2, by number on a RAM stack. -/
theorem jsrPushesReturnAddress : Obligations.JsrPushesReturnAddress := by
  refine fun nn s => ⟨rfl, fun off => ?_, fun h hi lo => ?_⟩
  · obtain ⟨sp, a, x, y, p⟩ := pushWord_registers (s.pc + 2#16) s
    exact ⟨_, exec_jsr_offPia off, rfl, sp, a, x, y, p⟩
  · have ret : (s.pc + 2#16).toNat = (s.pc.toNat + 2) % 65536 := BitVec.toNat_add _ _
    have low : BitVec.ofNat 8 ((s.pc.toNat + 2) % 65536) = BitVec.ofNat 8 (s.pc.toNat + 2) := by bv_omega
    rw [exec_jsr_offPia (offPia_pair (.inl hi) (.inl lo)), pushWord_ram_place h hi lo, ret, low]

/-- Settles O34: the return is two pulls. -/
theorem rtsReturnsPastPulledAddress : Obligations.RtsReturnsPastPulledAddress := by
  refine ⟨rfl, fun s => ⟨fun off => ?_, exec_rts_memory⟩⟩
  obtain ⟨sp, a, x, y, p⟩ := pullWord_registers s
  exact ⟨_, exec_rts_offPia off, sp, a, x, y, p⟩

/-- Settles O35: the return finds the call's two bytes where the call left them, and its `+1` completes pc0 + 3. -/
theorem rtsReturnsAfterJsr : Obligations.RtsReturnsAfterJsr := by
  intro nn s h hi lo
  obtain ⟨-, a, x, y, p⟩ := pushWord_registers (s.pc + 2#16) s
  have behind : s.pc + 2#16 + 1#16 = s.pc + 3#16 := BitVec.add_assoc _ _ _
  exact ⟨_, _, exec_jsr_offPia (offPia_pair (.inl hi) (.inl lo)), exec_rts_pushWord_ram h hi lo, behind,
    rfl, p, a, x, y⟩

end Sys2Proof.Proofs
end

section
/-! SUPPORT. The rules of the instructions that push or pull one byte, of a change of I and the old value it leaves for
the boundary (60_exceptions.md R264), and of trap entry and return (60_exceptions.md R270, 45_stack_flag_system.md
R248). -/

namespace Sys2Proof.Machine

open Claims

/-! One push, one pull, a change of I. -/

theorem pushAddrs_one (sp : Byte) : pushAddrs sp 1 = [stackAddr sp] := rfl

theorem pullAddrs_one (sp : Byte) : pullAddrs sp 1 = [stackAddr (sp + 1#8)] := rfl

/-- The decrement of S adds 255 modulo 256. -/
theorem push_place (v : Byte) (s : State) :
    push v s = { writeAt (stackAddr s.sp) v s with sp := BitVec.ofNat 8 (s.sp.toNat + 255) } := by
  have down : s.sp - 1#8 = BitVec.ofNat 8 (s.sp.toNat + 255) := by bv_omega
  rw [push, writeAt_sp, down]

/-- What a pull leaves of PC, P and the slack of I, whatever answers its access. -/
theorem pull_keeps (s : State) :
    (pull s).2.pc = s.pc ∧ (pull s).2.p = s.p ∧ (pull s).2.slackI = s.slackI := by
  simp [pull]

/-- From a state whose slack of I is still the one before the instruction. -/
theorem noteI_eq_slackAfter {s t : State} (slack : t.slackI = s.slackI) :
    State.noteI s.p.i t = { t with slackI := slackAfter s t.p.i } := by
  by_cases same : t.p.i = s.p.i
  · rw [State.noteI, if_pos same.symm, slackAfter, if_pos same, ← slack]
  · rw [State.noteI, if_neg (Ne.symm same), slackAfter, if_neg same]

section Shapes

variable {op : Byte} {i : Instr}

theorem pushes_of_pushThen {v : State → Byte} (bytes : encode i = [op]) (len : i.length = 1)
    (run : ∀ s, exec i s = pushThen (v s) s) : Pushes op i v := by
  refine ⟨bytes, fun s off => ?_⟩
  rw [run, pushThen, pushAddrs_one, guarded_of_off off, ← len, push_place, advance_eq_past]
  exact writeAt_pc _ _ s

/-- An instruction that pulls a byte, once its effect is known where the pull left P and the slack of I alone. -/
theorem pulls_of_pullThen {e : Byte → State → State} {post : State → Byte → State → State}
    (bytes : encode i = [op]) (len : i.length = 1) (run : ∀ s, exec i s = pullThen e s)
    (pc : ∀ s v t, (post s v t).pc = t.pc)
    (effect : ∀ s v t, t.p = s.p → t.slackI = s.slackI → e v t = post s v t) : Pulls op i post := by
  refine ⟨bytes, fun s off => ?_⟩
  obtain ⟨pcPull, p, slack⟩ := pull_keeps s
  rw [run, pullThen, pullAddrs_one, guarded_of_off off, ← len, effect s _ _ p slack, advance_eq_past]
  exact (pc s _ _).trans pcPull

end Shapes

theorem loadP_eq_flagsOfByte {s t : State} (v : Byte) (p : t.p = s.p) (slack : t.slackI = s.slackI) :
    loadP v t = { t with p := flagsOfByte v, slackI := slackAfter s (flagsOfByte v).i } := by
  rw [loadP, p, ofByte_eq_flagsOfByte]
  exact noteI_eq_slackAfter slack

/-! Trap entry onto a RAM stack. -/

/-- The three pushes leave every address off the stack page alone. -/
theorem trapState_peek_off_page {s : State} {vec ret a : Word} {b : Bool} (off : 512 ≤ a.toNat ∨ a.toNat < 256) :
    (trapState s vec ret b).peek a = s.peek a := by
  have page := s.sp.isLt
  simp only [State.peek, trapState]
  rw [Memory.read_write_ne _ _ (by omega), Memory.read_write_ne _ _ (by omega),
    Memory.read_write_ne _ _ (by omega)]

/-- The three pushed bytes lie on the stack, no push over another. -/
theorem trapState_peek_stack (s : State) (vec ret : Word) (b : Bool) :
    (trapState s vec ret b).peek (stackAddr s.sp) = hiByte ret ∧
      (trapState s vec ret b).peek (stackAddr (s.sp - 1#8)) = loByte ret ∧
      (trapState s vec ret b).peek (stackAddr (s.sp - 2#8)) = Flags.image s.p b := by
  have one : (s.sp - 1#8).toNat = (s.sp.toNat + 255) % 256 := by bv_omega
  have two : (s.sp - 2#8).toNat = (s.sp.toNat + 254) % 256 := by bv_omega
  simp only [State.peek, trapState, stackAddr_toNat, one, two, hiByte_eq, loByte_eq, image_eq_flagByte]
  refine ⟨?_, ?_, Memory.read_write_self _ _ _⟩
  · rw [Memory.read_write_ne _ _ (by omega), Memory.read_write_ne _ _ (by omega), Memory.read_write_self]
  · rw [Memory.read_write_ne _ _ (by omega), Memory.read_write_self]

/-- The three pushes of a trap entry, before the flags and PC change. -/
theorem push_status_ram {s : State} {ret : Word} {b : Bool} (vec : Word) (h : NoDma s) (stack : StackRam s) :
    push (Flags.image s.p b) (pushWord ret s) = { trapState s vec ret b with p := s.p, pc := s.pc } := by
  obtain ⟨hi, lo, status⟩ := stack
  have two : (s.sp - 2#8).toNat = (s.sp.toNat + 254) % 256 := by bv_omega
  have three : s.sp - 2#8 - 1#8 = s.sp - 3#8 := by bv_omega
  rw [pushWord_ram_place h hi lo, push_ram (by exact h) (by exact status)]
  simp only [trapState, stackAddr_toNat, two, three, image_eq_flagByte, List.append_assoc, List.cons_append,
    List.nil_append]

/-- A trap entry onto a RAM stack, its vector in memory above the stack page, reads the vector the pushes left alone
(60_exceptions.md R270). -/
theorem enterTrap_ram {s : State} {vec ret : Word} {b : Bool} (h : NoDma s) (stack : StackRam s)
    (vector : VectorMemory s vec) (above : 512 ≤ vec.toNat) : enterTrap vec ret b s = trapState s vec ret b := by
  have offNext : 512 ≤ (vec + 1#16).toNat ∨ (vec + 1#16).toNat < 256 := by bv_omega
  have read := readWord_memory (s := { trapState s vec ret b with pc := s.pc }) h vector.1 vector.2
  have word : wordOf (State.peek { trapState s vec ret b with pc := s.pc } (vec + 1#16))
      (State.peek { trapState s vec ret b with pc := s.pc } vec) = wordOf (s.peek (vec + 1#16)) (s.peek vec) :=
    congrArg₂ wordOf (trapState_peek_off_page (vec := vec) offNext)
      (trapState_peek_off_page (vec := vec) (.inl above))
  rw [word] at read
  rw [enterTrap, push_status_ram vec h stack]
  exact congrArg (fun w : Word × State => { w.2 with pc := w.1 }) read

/-- Off the PIA a trap is entered. -/
theorem takeTrap_offPia {s : State} {vec ret : Word} {b : Bool}
    (off : OffPia s [stackAddr s.sp, stackAddr (s.sp - 1#8), stackAddr (s.sp - 2#8), vec, vec + 1#16]) :
    takeTrap vec ret b s = .next (enterTrap vec ret b s) := by
  rw [takeTrap, pushAddrs_three]
  exact guarded_of_off off

theorem takeTrap_ram {s : State} {vec ret : Word} {b : Bool} (h : NoDma s) (stack : StackRam s)
    (vector : VectorMemory s vec) (above : 512 ≤ vec.toNat) :
    takeTrap vec ret b s = .next (trapState s vec ret b) := by
  obtain ⟨hi, lo, status⟩ := stack
  have off : OffPia s [stackAddr s.sp, stackAddr (s.sp - 1#8), stackAddr (s.sp - 2#8), vec, vec + 1#16] := by
    simp [OffPia, isPia_of_memory (.inl hi), isPia_of_memory (.inl lo), isPia_of_memory (.inl status),
      isPia_of_memory vector.1, isPia_of_memory vector.2]
  rw [takeTrap_offPia off, enterTrap_ram h ⟨hi, lo, status⟩ vector above]

/-! BRK and RTI. -/

/-- BRK is a trap entry that skips the byte after the opcode (45_stack_flag_system.md R247). -/
theorem exec_brk (s : State) : exec .brk s = takeTrap 0xFFFE#16 (s.pc + 2#16) true s := rfl

theorem byte_add_one_add_two (v : Byte) : v + 1#8 + 2#8 = v + 3#8 := by bv_omega

theorem pullAddrs_three (sp : Byte) :
    pullAddrs sp 3 = [stackAddr (sp + 1#8), stackAddr (sp + 2#8), stackAddr (sp + 3#8)] := by
  rw [pullAddrs, pullAddrs_two, byte_add_one_add_one, byte_add_one_add_two]

/-- Off the PIA the return is taken. -/
theorem exec_rti_offPia {s : State}
    (off : OffPia s [stackAddr (s.sp + 1#8), stackAddr (s.sp + 2#8), stackAddr (s.sp + 3#8)]) :
    exec .rti s = .next (returnFromTrap s) := by
  rw [← pullAddrs_three] at off
  exact guarded_of_off off

/-- The return is PLP's pull of the flags, then the pull of PC. -/
theorem returnFromTrap_eq (s : State) :
    returnFromTrap s =
      (fun w : Word × State => { w.2 with pc := w.1 }) (pullWord (loadP (pull s).1 (pull s).2)) := by
  obtain ⟨-, p, -⟩ := pull_keeps s
  rw [returnFromTrap, loadP, p]

/-- What a return leaves in the registers, whatever answers its accesses. -/
theorem returnFromTrap_registers (s : State) :
    (returnFromTrap s).a = s.a ∧ (returnFromTrap s).x = s.x ∧ (returnFromTrap s).y = s.y ∧
      (returnFromTrap s).sp = s.sp + 3#8 := by
  have kept := returnFromTrap_changesOnly s
  have sp : (returnFromTrap s).sp = s.sp + 3#8 := by
    obtain ⟨pulled, -⟩ := pullWord_registers (loadP (pull s).1 (pull s).2)
    have loaded : (loadP (pull s).1 (pull s).2).sp = (pull s).2.sp := loadP_changesOnly _ _ .sp (by simp)
    rw [returnFromTrap_eq, ← byte_add_one_add_two, ← pull_sp, ← loaded]
    exact pulled
  exact ⟨kept .a (by simp), kept .x (by simp), kept .y (by simp), sp⟩

theorem exec_rti_memory {s : State} (h : NoDma s) (status : IsMemory s (stackAddr (s.sp + 1#8)))
    (lo : IsMemory s (stackAddr (s.sp + 2#8))) (hi : IsMemory s (stackAddr (s.sp + 3#8))) :
    exec .rti s = .next { s with
      sp := s.sp + 3#8
      p := flagsOfByte (s.peek (stackAddr (s.sp + 1#8)))
      slackI := slackAfter s (flagsOfByte (s.peek (stackAddr (s.sp + 1#8)))).i
      pc := wordOf (s.peek (stackAddr (s.sp + 3#8))) (s.peek (stackAddr (s.sp + 2#8))) } := by
  have off : OffPia s [stackAddr (s.sp + 1#8), stackAddr (s.sp + 2#8), stackAddr (s.sp + 3#8)] := by
    simp [OffPia, isPia_of_memory status, isPia_of_memory lo, isPia_of_memory hi]
  have two : s.sp + 1#8 + 1#8 = s.sp + 2#8 := byte_add_one_add_one s.sp
  have three : s.sp + 2#8 + 1#8 = s.sp + 3#8 := by bv_omega
  have loaded := loadP_eq_flagsOfByte (s := s) (t := { s with sp := s.sp + 1#8 })
    (s.peek (stackAddr (s.sp + 1#8))) rfl rfl
  rw [exec_rti_offPia off, returnFromTrap_eq, pull_memory h status, loaded,
    pullWord_memory (by exact h) (by rwa [two]) (by rwa [two, three])]
  simp only [two, three]
  rfl

/-- A return in a handler's first state pulls what the entry pushed (60_exceptions.md R276). -/
theorem exec_rti_trapState {s : State} {vec ret : Word} {b : Bool} (h : NoDma s) (stack : StackRam s) :
    exec .rti (trapState s vec ret b) = .next { trapState s vec ret b with
      sp := s.sp
      p := s.p
      slackI := slackAfter (trapState s vec ret b) s.p.i
      pc := ret } := by
  obtain ⟨hi, lo, status⟩ := stack
  obtain ⟨peekHi, peekLo, peekStatus⟩ := trapState_peek_stack s vec ret b
  have upOne : (trapState s vec ret b).sp + 1#8 = s.sp - 2#8 := by
    simp only [trapState]
    bv_omega
  have upTwo : (trapState s vec ret b).sp + 2#8 = s.sp - 1#8 := by
    simp only [trapState]
    bv_omega
  have upThree : (trapState s vec ret b).sp + 3#8 = s.sp := BitVec.sub_add_cancel _ _
  have flags : flagsOfByte (Flags.image s.p b) = s.p := by rw [← ofByte_eq_flagsOfByte, ofByte_image]
  have returned := exec_rti_memory (s := trapState s vec ret b) h (by rw [upOne]; exact .inl status)
    (by rw [upTwo]; exact .inl lo) (by rw [upThree]; exact .inl hi)
  rw [returned]
  simp only [upOne, upTwo, upThree, peekHi, peekLo, peekStatus, flags, wordOf_bytes]

end Sys2Proof.Machine
end

section
/-! The statements about the stack, flag and system instructions (45_stack_flag_system.md). -/

namespace Sys2Proof.Proofs

open Sys2Proof.Machine

/-- Settles O10: BRK is a trap entry through 0xFFFE, above the stack page. -/
theorem brkEntersTheSharedVector : Obligations.BrkEntersTheSharedVector := by
  refine ⟨rfl, fun s => ⟨fun off => ?_, fun h stack vector => ?_⟩⟩
  · obtain ⟨a, x, y, sp, p⟩ := enterTrap_registers 0xFFFE#16 (s.pc + 2#16) true s
    have three : s.sp - 1#8 - 1#8 - 1#8 = s.sp - 3#8 := by bv_omega
    exact ⟨_, (exec_brk s).trans (takeTrap_offPia off), a, x, y, sp.trans three, p⟩
  · have ret : s.pc + 2#16 = BitVec.ofNat 16 (s.pc.toNat + 2) := by bv_omega
    rw [exec_brk, takeTrap_ram h stack vector (by decide), ret]

/-- Settles O11: the return is three pulls, P before PC. -/
theorem rtiRestoresStatusAndPc : Obligations.RtiRestoresStatusAndPc :=
  ⟨rfl, fun s => ⟨fun off => ⟨_, exec_rti_offPia off, returnFromTrap_registers s⟩, exec_rti_memory⟩⟩

/-- Settles O12: the return finds the entry's three bytes where the entry left them, and both vectors lie above the
stack page. -/
theorem rtiUndoesTrapEntry : Obligations.RtiUndoesTrapEntry := by
  intro s vec ret b known h stack vector
  have above : 512 ≤ vec.toNat := by rcases known with rfl | rfl <;> decide
  exact ⟨_, _, takeTrap_ram h stack vector above, exec_rti_trapState h stack, rfl, rfl, rfl, rfl, rfl, rfl⟩

/-- Settles O37: each form pushes its register, PHP the image of P by place value. -/
theorem pushesStoreRegisters : Obligations.PushesStoreRegisters := by
  refine ⟨?pha, ?php, ?phx, ?phy⟩
  case pha | phx | phy => exact pushes_of_pushThen rfl rfl fun _ => rfl
  case php => exact pushes_of_pushThen rfl rfl fun s => congrArg (pushThen · s) (image_eq_flagByte s.p true)

/-- Settles O38: each form pulls a byte, PLP for the flags, the others for their register with N and Z. -/
theorem pullsLoadRegisters : Obligations.PullsLoadRegisters := by
  refine ⟨?pla, ?plx, ?ply, ?plp⟩
  case pla =>
    exact pulls_of_pullThen rfl rfl (fun _ => rfl) (fun _ _ _ => rfl) fun _ v t p _ => p ▸ loadA_eq_nz v t
  case plx =>
    exact pulls_of_pullThen rfl rfl (fun _ => rfl) (fun _ _ _ => rfl) fun _ v t p _ => p ▸ loadX_eq_nz v t
  case ply =>
    exact pulls_of_pullThen rfl rfl (fun _ => rfl) (fun _ _ _ => rfl) fun _ v t p _ => p ▸ loadY_eq_nz v t
  case plp =>
    exact pulls_of_pullThen rfl rfl (fun _ => rfl) (fun _ _ _ => rfl) fun _ v _ => loadP_eq_flagsOfByte v

/-- Settles O39: CLI and SEI also note the old I, the others and NOP have no more than their one update. -/
theorem flagInstructionsChangeOneFlag : Obligations.FlagInstructionsChangeOneFlag := by
  refine ⟨?clc, ?cld, ?cli, ?clv, ?sec, ?sed, ?sei, ?nop⟩
  case clc | cld | clv | sec | sed | nop => exact computes_of_implied rfl rfl (fun _ => rfl) fun _ => rfl
  case cli | sei =>
    exact computes_of_implied rfl rfl (fun _ => rfl) fun _ => congrArg implied (noteI_eq_slackAfter rfl)

end Sys2Proof.Proofs
end

section
/-! SUPPORT. The rules of the boundary, of nmi_line and RES, and of the fetch: what the boundary test answers
(60_exceptions.md R264, R267), when the latch of nmi_line is set (R265), what a change of RES and a step torn by its
fall leave (R266; 62_pia_r6520.md R337; 70_reset_and_hazards.md R351), and the instruction a fetch from memory
answers (60_exceptions.md R281). -/

namespace Sys2Proof.Machine

open Claims

/-! The boundary test. -/

/-- Whatever the free bit is, the value is the old or the present one. -/
theorem slackValue_old_or_new (old : Option Bool) (now : Bool) (draw : Nat) :
    slackValue old now draw = now ∨ old = some (slackValue old now draw) := by
  cases old with
  | none => exact .inl rfl
  | some o =>
    rw [slackValue]
    split
    next => exact .inr rfl
    next => exact .inl rfl

theorem irqSelected_noSlack {s : State} (h : NoSlack s) : s.irqSelected = (s.irqAsserted && !s.p.i) := by
  obtain ⟨slackI, slackLine⟩ := h
  rw [State.irqSelected, slackI, slackLine]
  rfl

theorem selection_nmi {s : State} (pending : s.nmiPending = true) : s.selection = .nmi := by
  rw [State.selection, if_pos pending]

theorem selection_irq {s : State} (noNmi : s.nmiPending = false) (irq : s.irqSelected = true) :
    s.selection = .irq := by
  rw [State.selection, noNmi, irq]
  rfl

theorem selection_instruction {s : State} (noNmi : s.nmiPending = false) (irq : s.irqSelected = false) :
    s.selection = .instruction := by
  rw [State.selection, noNmi, irq]
  rfl

theorem boundary_noSlack {s : State} (h : NoSlack s) : s.boundary = s := by
  obtain ⟨slackI, slackLine⟩ := h
  rw [State.boundary, slackI, slackLine]
  rfl

/-- Slack or not, the boundary test leaves what a fetch looks at. -/
theorem boundary_keeps (s : State) :
    s.boundary.mem = s.mem ∧ s.boundary.pc = s.pc ∧ s.boundary.dmaTurns = s.dmaTurns := by
  unfold State.boundary
  split <;> exact ⟨rfl, rfl, rfl⟩

theorem step_of_agenda_nil {s : State} (h : s.agenda = []) : step s = cpuStep s.clearTrace := by
  rw [step, takeTurn, h]
  rfl

theorem step_of_cpuTorn {s : State} {rest : List Action} (h : s.agenda = .cpuTorn :: rest) :
    step s = tornStep { s.clearTrace with agenda := rest } := by
  rw [step, takeTurn, h]
  rfl

/-- A CPU step with RES high and no reset due is what the boundary test selects (60_exceptions.md R281). -/
theorem step_of_selection {s : State} (ready : CpuReady s) :
    (s.clearTrace.selection = .nmi → step s = takeNmi s.clearTrace.boundary) ∧
    (s.clearTrace.selection = .irq → step s = takeIrq s.clearTrace.boundary) ∧
    (s.clearTrace.selection = .instruction → step s = runInstruction s.clearTrace.boundary) := by
  obtain ⟨agenda, res, pending⟩ := ready
  rw [step_of_agenda_nil agenda]
  refine ⟨fun sel => ?_, fun sel => ?_, fun sel => ?_⟩ <;> simp [cpuStep, res, pending, sel]

theorem cpuStep_resLow {s : State} (h : s.resLine = .low) : cpuStep s = .next s := by
  rw [cpuStep, if_pos h]

/-! The latch of nmi_line. -/

/-- The latch of nmi_line is set in `t` exactly where it was in `s` or the line fell in between
(60_exceptions.md R265). -/
def NmiLatched (s t : State) : Prop := t.nmiPending = (s.nmiPending || (!s.nmiLow && t.nmiLow))

theorem latchNmi_nmiLow (old s : State) : (State.latchNmi old s).nmiLow = s.nmiLow := by
  unfold State.latchNmi
  split <;> rfl

theorem latchNmi_nmiPending (old s : State) :
    (State.latchNmi old s).nmiPending = (s.nmiPending || (!old.nmiLow && s.nmiLow)) := by
  unfold State.latchNmi
  split
  next fell => simp [fell]
  next stays => simp [Bool.eq_false_iff.2 stays]

theorem latchNmi_latched {s t : State} (kept : t.nmiPending = s.nmiPending) :
    NmiLatched s (State.latchNmi s t) := by
  rw [NmiLatched, latchNmi_nmiLow, latchNmi_nmiPending, kept]

/-- Noting irq_line for the boundary moves neither the latch nor nmi_line. -/
theorem NmiLatched.noteLine {s t : State} (h : NmiLatched s t) (old : State) :
    NmiLatched s (State.noteLine old t) := by
  unfold State.noteLine
  split <;> exact h

/-! No operation before the latch touches it. -/

@[simp] theorem updSection_nmiPending (side : Side) (f : PiaSection → PiaSection) (s : State) :
    (s.updSection side f).nmiPending = s.nmiPending := by
  cases side <;> rfl

@[simp] theorem driveC2_nmiPending (side : Side) (l : Level) (s : State) :
    (s.driveC2 side l).nmiPending = s.nmiPending := updSection_nmiPending side _ s

@[simp] theorem strobeC2_nmiPending (side : Side) (s : State) : (s.strobeC2 side).nmiPending = s.nmiPending := by
  unfold State.strobeC2
  split <;> simp

@[simp] theorem holdPia_nmiPending (s : State) : s.holdPia.nmiPending = s.nmiPending := by
  unfold State.holdPia
  split <;> simp

@[simp] theorem portARead_nmiPending (s : State) : s.portARead.2.nmiPending = s.nmiPending := by
  unfold State.portARead
  dsimp only
  split <;> rfl

theorem piaReadRaw_nmiPending (r : PiaReg) (s : State) : (s.piaReadRaw r).2.nmiPending = s.nmiPending := by
  cases r <;> simp only [State.piaReadRaw]
  case dataA => split <;> simp
  case dataB => split <;> simp [State.portBRead]

@[simp] theorem writeData_nmiPending (side : Side) (v : Byte) (s : State) :
    (s.writeData side v).nmiPending = s.nmiPending := by
  unfold State.writeData
  split <;> simp

@[simp] theorem writeControl_nmiPending (side : Side) (v : Byte) (s : State) :
    (s.writeControl side v).nmiPending = s.nmiPending := by
  unfold State.writeControl
  dsimp only
  split
  · simp
  · simp
  · simp
  · split <;> simp
  · simp

theorem piaWriteRaw_nmiPending (r : PiaReg) (v : Byte) (s : State) :
    (s.piaWriteRaw r v).nmiPending = s.nmiPending := by
  cases r <;> simp only [State.piaWriteRaw]
  case dataA | controlA | controlB => simp
  case dataB => split <;> simp

theorem changeC1_nmiPending (side : Side) (l : Level) (s : State) :
    (s.changeC1 side l).nmiPending = s.nmiPending := by
  unfold State.changeC1
  dsimp only
  split
  · split <;> simp
  · simp

theorem changeC2_nmiPending (side : Side) (l : Level) (s : State) :
    (s.changeC2 side l).nmiPending = s.nmiPending := by
  unfold State.changeC2
  dsimp only
  split
  · rfl
  · split <;> simp

theorem changeRes_nmiPending (l : Level) (s : State) : (s.changeRes l).nmiPending = s.nmiPending := by
  cases l
  case low => rfl
  case high =>
    rw [State.changeRes]
    split <;> rfl

theorem applyEnvRaw_nmiPending (e : EnvEvent) (s : State) : (applyEnvRaw e s).nmiPending = s.nmiPending := by
  cases e with
  | res l => exact changeRes_nmiPending l s
  | piaRes l => rfl
  | extIrq b => rfl
  | extNmi b => rfl
  | port side v => exact updSection_nmiPending side _ s
  | c1 side l => exact changeC1_nmiPending side l s
  | c2 side l => exact changeC2_nmiPending side l s

theorem applyEnv_latched (e : EnvEvent) (s : State) : NmiLatched s (applyEnv e s) :=
  latchNmi_latched ((holdPia_nmiPending _).trans (applyEnvRaw_nmiPending e s))

theorem piaRead_latched (r : PiaReg) (s : State) : NmiLatched s (s.piaRead r).2 :=
  (latchNmi_latched (piaReadRaw_nmiPending r s)).noteLine s

/-- Held in reset the PIA drives nothing (62_pia_r6520.md R337). -/
theorem holdPia_nmiLow {s : State} (h : s.piaInReset = true) : s.holdPia.nmiLow = s.extNmi := by
  have quiet : ∀ q : PiaSection, q.cleared.irqLow = false := fun q => by
    simp [PiaSection.irqLow, PiaSection.cleared, bit]
  rw [State.holdPia, if_pos h]
  simp [State.nmiLow, State.updSection, quiet]

/-- A write while the PIA is held in reset can only raise nmi_line. -/
theorem piaWrite_latched (r : PiaReg) (v : Byte) (s : State) : NmiLatched s (s.piaWrite r v) := by
  unfold State.piaWrite
  split
  next held =>
    have low : State.nmiLow (State.holdPia { s with pia := { s.pia with dir := v } }) = s.extNmi :=
      holdPia_nmiLow (s := { s with pia := { s.pia with dir := v } }) held
    have ext : s.extNmi = true → s.nmiLow = true := fun h => by simp [State.nmiLow, h]
    rw [NmiLatched, low, holdPia_nmiPending]
    cases asserted : s.extNmi
    case false => simp
    case true => simp [ext asserted]
  next => exact (latchNmi_latched (piaWriteRaw_nmiPending r v s)).noteLine s

/-! RES. -/

theorem changeRes_resLine (l : Level) (s : State) : (s.changeRes l).resLine = l := by
  cases l
  case low => rfl
  case high =>
    rw [State.changeRes]
    split
    next => rfl
    next notLow =>
      cases h : s.resLine
      case low => exact absurd h notLow
      case high => rfl

theorem applyEnv_res_resLine (l : Level) (s : State) : (applyEnv (.res l) s).resLine = l :=
  ((holdPia_piaOnly _).trans (latchNmi_piaOnly s _)).resLine.trans (changeRes_resLine l s)

/-- A rise of RES makes the reset pending (60_exceptions.md R281). -/
theorem applyEnv_res_rise {s : State} (low : s.resLine = .low) : (applyEnv (.res .high) s).resetPending = true := by
  have raw : (applyEnvRaw (.res .high) s).resetPending = true := by
    simp [applyEnvRaw, State.changeRes, low]
  exact ((holdPia_piaOnly _).trans (latchNmi_piaOnly s _)).resetPending.trans raw

theorem latchNmi_pia (old s : State) : (State.latchNmi old s).pia = s.pia := by
  unfold State.latchNmi
  split <;> rfl

theorem holdPia_allZero {s : State} (h : s.piaInReset = true) :
    s.holdPia.pia.a.allZero = true ∧ s.holdPia.pia.b.allZero = true := by
  rw [State.holdPia, if_pos h]
  exact ⟨cleared_allZero _, cleared_allZero _⟩

/-- A low RES that the PIA shares zeroes its registers (62_pia_r6520.md R337). -/
theorem applyEnv_res_low_allZero {s : State} (tied : s.platform.piaResTied = true) :
    (applyEnv (.res .low) s).pia.a.allZero = true ∧ (applyEnv (.res .low) s).pia.b.allZero = true := by
  have held : (applyEnvRaw (.res .low) s).piaInReset = true := by
    simp [applyEnvRaw, State.changeRes, State.piaInReset, tied]
  rw [applyEnv, latchNmi_pia]
  exact holdPia_allZero held

/-! A step torn by RES. -/

theorem Kept.changedOnlyBy {events : List BusEvent} {torn : Option Word} {s t : State}
    (h : Kept events torn s t) {b : Word} (other : torn ≠ some b) : ChangedOnlyBy events s t b := by
  rcases h b other with same | ⟨e, listed, v, rfl | rfl, stored⟩
  · exact .inl same
  · exact .inr ⟨v, .inl listed, stored⟩
  · exact .inr ⟨v, .inr listed, stored⟩

/-- What is kept concerns memory only. -/
theorem Kept.congr {events : List BusEvent} {torn : Option Word} {s s' t t' : State} (h : Kept events torn s t)
    (final : t'.mem = t.mem) (start : s'.mem = s.mem) : Kept events torn s' t' := by
  intro b other
  rw [peek_congr final, peek_congr start]
  exact h b other

/-- Before the replay a torn step frees registers only, and the fall of RES after it leaves memory alone. -/
theorem tear_tornFrom (s t : State) : TornFrom s t (tear s t) :=
  (replay_kept t.trace true _).imp fun _ ⟨storing, _, kept⟩ =>
    ⟨storing, fun _ => (kept.congr (applyEnv_mem (.res .low) _) rfl).changedOnlyBy⟩

theorem tear_resLine (s t : State) : (tear s t).resLine = .low := applyEnv_res_resLine .low _

theorem tornStep_of_cpuStep {s u : State} (high : s.resLine = .high) (whole : cpuStep s = .next u) :
    tornStep s = .next (tear s u) := by
  simp [tornStep, high, whole]

/-! The fetch from memory. -/

theorem length_addrsFrom (n : Nat) : ∀ a : Word, (addrsFrom n a).length = n := by
  induction n with
  | zero => exact fun _ => rfl
  | succ n ih => exact fun a => congrArg (· + 1) (ih (a + 1#16))

theorem addrsFrom_add (m n : Nat) : ∀ a : Word,
    addrsFrom (m + n) a = addrsFrom m a ++ addrsFrom n (a + BitVec.ofNat 16 m) := by
  induction m with
  | zero => simp [addrsFrom]
  | succ m ih =>
    intro a
    rw [Nat.add_right_comm, addrsFrom, addrsFrom, ih, add_one_add_ofNat, List.cons_append]

/-- Bytes of memory are read with no change of state. -/
theorem readBytes_memory {s : State} (h : NoDma s) : ∀ (n : Nat) (a : Word),
    (∀ b ∈ addrsFrom n a, IsMemory s b) → readBytes n a s = ((addrsFrom n a).map s.peek, s)
  | 0, _, _ => rfl
  | n + 1, a, memory => by
    obtain ⟨first, others⟩ := List.forall_mem_cons.1 memory
    rw [readBytes, readAt_memory h first, readBytes_memory h n (a + 1#16) others]
    rfl

/-- `Laws.EncodeLength` for every instruction at once. -/
theorem encodeLength (i : Instr) : Laws.EncodeLength.Statement i := by
  cases i <;> exact ⟨rfl, rfl⟩

/-- Where the bytes from `a` on start with an encoding, those of its length are the encoding. -/
theorem peek_eq_encode {s : State} {i : Instr} {n : Nat} {a : Word} {rest : List Byte}
    (h : (addrsFrom n a).map s.peek = encode i ++ rest) : (addrsFrom i.length a).map s.peek = encode i := by
  obtain ⟨len, -⟩ := encodeLength i
  have total : n = i.length + rest.length := by
    simpa [length_addrsFrom, len] using congrArg List.length h
  rw [total, addrsFrom_add, List.map_append] at h
  exact (List.append_inj h (by simp [length_addrsFrom, len])).1

/-- The fetch answers the instruction whose encoding memory holds at PC, and changes nothing. -/
theorem fetch_memory {s : State} {i : Instr} (h : NoDma s) (memory : ∀ b ∈ addrsFrom i.length s.pc, IsMemory s b)
    (bytes : (addrsFrom i.length s.pc).map s.peek = encode i) : fetch s = .instr i s := by
  obtain ⟨len, opcode⟩ := encodeLength i
  obtain ⟨n, long⟩ : ∃ n, i.length = n + 1 := by
    cases enc : encode i with
    | nil => simp [enc] at opcode
    | cons op tail => exact ⟨tail.length, by rw [← len, enc, List.length_cons]⟩
  rw [long, addrsFrom] at memory bytes
  obtain ⟨first, others⟩ := List.forall_mem_cons.1 memory
  have offPia : (addrsFrom n (s.pc + 1#16)).find? s.platform.isPia = none :=
    List.find?_eq_none.2 fun b hb => by simp [isPia_of_memory (others b hb)]
  have known : opcodeLength (s.peek s.pc) = some (n + 1) := by
    rw [← bytes, long] at opcode
    exact opcode
  have decoded : decode (s.peek s.pc :: (addrsFrom n (s.pc + 1#16)).map s.peek) = .ok (i, []) := by
    have := decode_encode i []
    rwa [List.append_nil, ← bytes] at this
  simp [fetch, isPia_of_memory first, readAt_memory h first, known, offPia, readBytes_memory h n _ others, decoded]

theorem runInstruction_of_fetch {s t : State} {i : Instr} (h : fetch s = .instr i t) : runInstruction s = exec i t := by
  simp [runInstruction, h]

end Sys2Proof.Machine
end

section
/-! The statements about exceptions and the step (60_exceptions.md). -/

namespace Sys2Proof.Proofs

open Sys2Proof.Machine

/-- Settles O14: RES by its own change and the hold of the PIA, the torn step by what its replay keeps, the whole step
by the record of its accesses. -/
theorem resHoldsTheCpuAndItsRiseStartsReset : Obligations.ResHoldsTheCpuAndItsRiseStartsReset := by
  intro s
  refine ⟨fun agenda low => ?held, fun low => ⟨applyEnv_res_rise low, applyEnv_res_resLine .high s⟩,
    applyEnv_res_low_allZero, fun rest u agenda high whole => ⟨fun b => ?recorded, ?torn⟩⟩
  case held => exact (step_of_agenda_nil agenda).trans (cpuStep_resLow low)
  case recorded => exact (cpuStep_recorded whole).changedOnlyBy (b := b) nofun
  case torn =>
    exact ⟨_, (step_of_cpuTorn agenda).trans (tornStep_of_cpuStep high whole), tear_resLine _ u, tear_tornFrom _ u⟩

/-- Settles O7: without slack the test is made with the present I and line, and the boundary changes nothing. -/
theorem boundaryTakesNmiThenIrqThenInstruction : Obligations.BoundaryTakesNmiThenIrqThenInstruction := by
  intro s ready slack
  have clear : NoSlack s.clearTrace := slack
  obtain ⟨nmi, irq, instruction⟩ := step_of_selection ready
  rw [boundary_noSlack clear] at nmi irq instruction
  have test : s.clearTrace.irqSelected = (s.irqAsserted && !s.p.i) := irqSelected_noSlack clear
  refine ⟨fun pending => nmi (selection_nmi pending), fun noNmi line i => irq (selection_irq noNmi ?_),
    fun noNmi masked => instruction (selection_instruction noNmi ?_)⟩
  · rw [test, line, i]
    rfl
  · rw [test]
    rcases masked with line | i
    · rw [line]
      rfl
    · rw [i]
      exact Bool.and_false _

/-- Settles O8: the two values the test is made with are each old or new. -/
theorem slackAdmitsOnlyOldOrNewValues : Obligations.SlackAdmitsOnlyOldOrNewValues := fun s =>
  ⟨_, _, slackValue_old_or_new s.slackLine _ _, slackValue_old_or_new s.slackI _ _, rfl⟩

/-- Settles O9: the guard lets the entry through, and on a RAM stack each push is a write of memory. -/
theorem trapEntryPushesPcAndStatus : Obligations.TrapEntryPushesPcAndStatus := by
  intro s vec ret b known
  refine ⟨fun off => ?_, fun h stack vector => ?_⟩
  · obtain ⟨a, x, y, sp, p⟩ := enterTrap_registers vec ret b s
    have three : s.sp - 1#8 - 1#8 - 1#8 = s.sp - 3#8 := by bv_omega
    exact ⟨_, takeTrap_offPia off, a, x, y, sp.trans three, p⟩
  · have above : 512 ≤ vec.toNat := by rcases known with rfl | rfl <;> decide
    exact takeTrap_ram h stack vector above

/-- Settles O57: each change ends in the latch, but for a write that the reset of the PIA swallows. -/
theorem nmiEdgeIsLatchedOnce : Obligations.NmiEdgeIsLatchedOnce :=
  fun s => ⟨fun e => applyEnv_latched e s, fun r => piaRead_latched r s, fun r v => piaWrite_latched r v s⟩

/-- Settles O6: the boundary leaves memory and PC alone, and the fetch answers the instruction the bytes encode. -/
theorem stepRunsDecodedInstruction : Obligations.StepRunsDecodedInstruction := by
  intro s i rest ready h sel memory decoded
  obtain ⟨-, -, instruction⟩ := step_of_selection ready
  obtain ⟨mem, pc, dmaTurns⟩ := boundary_keeps s.clearTrace
  have peek : s.clearTrace.boundary.peek = s.peek := funext (peek_congr mem)
  have two : s.pc + 1#16 + 1#16 = s.pc + 2#16 := by bv_omega
  have bytes : (addrsFrom 3 s.pc).map s.peek = encode i ++ rest := by
    rw [← encode_of_decode decoded, ← two]
    rfl
  rw [instruction sel]
  refine runInstruction_of_fetch (fetch_memory (dmaTurns.trans h) (fun b hb => ?_) ?_)
  · rw [pc] at hb
    obtain ⟨k, inside, rfl⟩ := mem_addrsFrom.1 hb
    rw [IsMemory, boundary_platform]
    exact memory k inside
  · rw [pc, peek]
    exact peek_eq_encode bytes

end Sys2Proof.Proofs
end

section
/-! SUPPORT. The addresses of the PIA, and its accesses as functions of one section: what a data or control write, a
strobe of C2 and a read of a port leave of it, and what the accesses of each register then show and drive
(62_pia_r6520.md R301 to R308, R320 to R327). -/

namespace Sys2Proof

theorem bit_and (b c : Byte) (k : Nat) : bit (b &&& c) k = (bit b k && bit c k) := BitVec.getLsbD_and

theorem bit_not (b : Byte) {k : Nat} (h : k < 8) : bit (~~~b) k = !bit b k := by
  simp [bit, h]

/-- Each line of a port shows one of two bytes, as its direction bit says (62_pia_r6520.md R307, R308). -/
theorem bit_lines (pins out ddr : Byte) {k : Nat} (h : k < 8) :
    bit ((pins &&& ~~~ddr) ||| (out &&& ddr)) k = if bit ddr k then bit out k else bit pins k := by
  rw [bit_or, bit_and, bit_and, bit_not ddr h]
  cases bit ddr k <;> simp

namespace Machine

open Claims

/-! The addresses of the PIA. -/

/-- With RS0 on A0 and RS1 on A1 the select lines count up from the base (62_pia_r6520.md R301). -/
theorem piaSelect_default {p : Platform} {base : Word} (hbase : p.piaBase = some base) (h0 : p.rs0Line = 0)
    (h1 : p.rs1Line = 1) (d : Word) :
    p.piaSelect (base + d) = if d = 0#16 then some .dataA else if d = 1#16 then some .controlA
      else if d = 2#16 then some .dataB else if d = 3#16 then some .controlB else none := by
  have both : base + 1#16 + 2#16 = base + 3#16 := by bv_omega
  simp [Platform.piaSelect, hbase, h0, h1, piaAddress, both]

theorem target_eq_pia_iff (p : Platform) (a : Word) (r : PiaReg) :
    p.target a = .pia r ↔ p.piaSelect a = some r := by
  unfold Platform.target
  cases p.piaSelect a with
  | some q => simp
  | none =>
    dsimp only
    split
    · split <;> simp
    · simp

/-! A section of the PIA replaced. -/

/-- The PIA with one section replaced by its image under `f`. -/
def Pia.upd (side : Side) (f : PiaSection → PiaSection) (q : Pia) : Pia :=
  match side with
  | .a => { q with a := f q.a }
  | .b => { q with b := f q.b }

@[simp] theorem updSection_pia (side : Side) (f : PiaSection → PiaSection) (s : State) :
    (s.updSection side f).pia = s.pia.upd side f := by
  cases side <;> rfl

@[simp] theorem updSection_pinEvents (side : Side) (f : PiaSection → PiaSection) (s : State) :
    (s.updSection side f).pinEvents = s.pinEvents := by
  cases side <;> rfl

theorem updSection_draws (side : Side) (f : PiaSection → PiaSection) (s : State) :
    (s.updSection side f).draws = s.draws := by
  cases side <;> rfl

@[simp] theorem driveC2_pia (side : Side) (l : Level) (s : State) :
    (s.driveC2 side l).pia = s.pia.upd side fun q => { q with c2Out := l } := updSection_pia side _ s

@[simp] theorem driveC2_pinEvents (side : Side) (l : Level) (s : State) :
    (s.driveC2 side l).pinEvents = s.pinEvents ++ [⟨side, l⟩] := by
  simp [State.driveC2]

@[simp] theorem upd_upd (side : Side) (f g : PiaSection → PiaSection) (q : Pia) :
    (q.upd side f).upd side g = q.upd side fun r => g (f r) := by
  cases side <;> rfl

@[simp] theorem section_upd (side : Side) (f : PiaSection → PiaSection) (q : Pia) :
    (q.upd side f).section side = f (q.section side) := by
  cases side <;> rfl

theorem upd_congr {side : Side} {f g : PiaSection → PiaSection} {q : Pia}
    (h : f (q.section side) = g (q.section side)) : q.upd side f = q.upd side g := by
  cases side
  · exact congrArg (fun r => { q with a := r }) h
  · exact congrArg (fun r => { q with b := r }) h

theorem upd_of_fixed {side : Side} {f : PiaSection → PiaSection} {q : Pia}
    (h : f (q.section side) = q.section side) : q.upd side f = q :=
  (upd_congr (g := id) h).trans (by cases side <;> rfl)

/-! What a write leaves of a section. -/

/-- A write of the data address (62_pia_r6520.md R303). -/
def PiaSection.afterData (v : Byte) (q : PiaSection) : PiaSection :=
  if bit q.cr 2 then { q with outReg := v } else { q with ddr := v }

@[simp] theorem afterData_cr (v : Byte) (q : PiaSection) : (q.afterData v).cr = q.cr := by
  unfold PiaSection.afterData
  split <;> rfl

@[simp] theorem afterData_c2Out (v : Byte) (q : PiaSection) : (q.afterData v).c2Out = q.c2Out := by
  unfold PiaSection.afterData
  split <;> rfl

theorem afterData_outReg (v : Byte) (q : PiaSection) :
    (q.afterData v).outReg = if bit q.cr 2 then v else q.outReg := by
  unfold PiaSection.afterData
  split <;> rfl

theorem afterData_ddr (v : Byte) (q : PiaSection) :
    (q.afterData v).ddr = if bit q.cr 2 then q.ddr else v := by
  unfold PiaSection.afterData
  split <;> rfl

theorem writeData_pia (side : Side) (v : Byte) (s : State) :
    (s.writeData side v).pia = s.pia.upd side (PiaSection.afterData v) := by
  unfold State.writeData
  split
  next port => exact (updSection_pia _ _ _).trans (upd_congr (if_pos port).symm)
  next direction => exact (updSection_pia _ _ _).trans (upd_congr (if_neg direction).symm)

theorem writeData_pinEvents (side : Side) (v : Byte) (s : State) :
    (s.writeData side v).pinEvents = s.pinEvents := by
  unfold State.writeData
  split <;> exact updSection_pinEvents _ _ _

/-- The levels a data access drives on C2, oldest first (62_pia_r6520.md R322, R326). -/
def strobeLevels : C2Mode → List Level
  | .handshake => [.low]
  | .pulse => [.low, .high]
  | .input | .manualLow | .manualHigh => []

theorem strobeLevels_of_idle {m : C2Mode} (h : m ≠ .handshake ∧ m ≠ .pulse) : strobeLevels m = [] := by
  cases m <;> simp_all [strobeLevels]

/-- A strobe leaves the latch at the last level it drives. -/
def PiaSection.afterStrobe (q : PiaSection) : PiaSection :=
  { q with c2Out := (strobeLevels (c2Mode q.cr)).getLastD q.c2Out }

theorem strobeC2_pia (side : Side) (s : State) :
    (s.strobeC2 side).pia = s.pia.upd side PiaSection.afterStrobe := by
  unfold State.strobeC2
  split
  case h_1 mode | h_2 mode =>
    simp only [driveC2_pia, upd_upd]
    exact upd_congr (by simp [PiaSection.afterStrobe, mode, strobeLevels])
  case h_3 mode | h_4 mode | h_5 mode =>
    exact (upd_of_fixed (by simp [PiaSection.afterStrobe, mode, strobeLevels])).symm

theorem strobeC2_pinEvents (side : Side) (s : State) :
    (s.strobeC2 side).pinEvents =
      s.pinEvents ++ (strobeLevels (c2Mode (s.pia.section side).cr)).map (PinEvent.mk side) := by
  unfold State.strobeC2
  split <;> next mode => simp [mode, strobeLevels]

/-- A control write, `free` being the level of C2 where handshake mode is new (62_pia_r6520.md R303, R323, R327). -/
def PiaSection.afterControl (v : Byte) (free : Level) (q : PiaSection) : PiaSection :=
  { q with
    cr := crAfterWrite q.cr v
    c2Out :=
      match c2Mode v with
      | .manualLow => .low
      | .manualHigh | .pulse => .high
      | .handshake => if c2Mode q.cr = .handshake then q.c2Out else free
      | .input => q.c2Out }

theorem writeControl_pia (side : Side) (v : Byte) (s : State) :
    ∃ free, (s.writeControl side v).pia = s.pia.upd side (PiaSection.afterControl v free) := by
  refine ⟨if Config.freeBit s.draws then .high else .low, ?_⟩
  unfold State.writeControl
  dsimp only
  split
  case h_1 mode | h_2 mode | h_3 mode | h_5 mode =>
    simp only [driveC2_pia, updSection_pia, upd_upd]
    exact upd_congr (by simp [PiaSection.afterControl, mode])
  case h_4 mode =>
    split
    next stays =>
      simp only [updSection_pia]
      exact upd_congr (by simp [PiaSection.afterControl, mode, stays])
    next new =>
      simp only [driveC2_pia, updSection_pia, upd_upd]
      exact upd_congr (by simp [PiaSection.afterControl, mode, new, updSection_draws])

theorem c2Follows_afterControl (q : PiaSection) (v : Byte) (free : Level) :
    C2Follows q (q.afterControl v free) v := by
  have shown : bit (q.afterControl v free).cr 5 = bit v 5 := crAfterWrite_bit q.cr v 5 (by decide)
  refine ⟨fun h5 => ?input, fun h5 => ?output, fun h5 h4 => ?manual, fun h5 h4 h3 => ?pulse,
    fun h5 h4 h3 q5 q4 q3 => ?handshake⟩
  case input | output => simp [PiaSection.c2Driven, shown, h5]
  case manual => cases h3 : bit v 3 <;> simp [PiaSection.afterControl, c2Mode, h5, h4, h3]
  case pulse => simp [PiaSection.afterControl, c2Mode, h5, h4, h3]
  case handshake =>
    rw [crBit] at q5 q4 q3
    simp [PiaSection.afterControl, c2Mode, h5, h4, h3, q5, q4, q3]

/-! What a read of a port shows and leaves. -/

theorem portARead_eq (s : State) :
    ∃ out k, s.portARead = ((s.pia.a.pins &&& ~~~s.pia.a.ddr) ||| (out &&& s.pia.a.ddr), { s with draws := k }) ∧
      (s.platform.paReadback = .oraBit → out = s.pia.a.outReg) := by
  unfold State.portARead
  cases s.platform.paReadback with
  | oraBit => exact ⟨_, s.draws, rfl, fun _ => rfl⟩
  | anyValue => exact ⟨_, _, rfl, nofun⟩

theorem irqLow_clearFlags (q : PiaSection) : q.clearFlags.irqLow = false := by
  simp [PiaSection.irqLow, PiaSection.clearFlags, bit]

/-- A control register as a read shows it, bit by bit (62_pia_r6520.md R304, R320). -/
theorem bit_shownCr (q : PiaSection) {k : Nat} (h : k < 8) :
    bit q.shownCr k = (crBit q k && !(decide (k = 6) && crBit q 5)) := by
  unfold PiaSection.shownCr
  split
  next output =>
    have mask : bit 0xBF#8 k = !decide (k = 6) := by
      interval_cases k <;> decide
    rw [bit_and, mask, crBit, crBit, output, Bool.and_true]
  next input => simp [crBit, input]

theorem piaReadRaw_dataA_port {s : State} (port : bit s.pia.a.cr 2 = true) :
    s.piaReadRaw .dataA = (s.portARead.1, (s.portARead.2.updSection .a PiaSection.clearFlags).strobeC2 .a) :=
  if_pos port

theorem piaReadRaw_dataA_ddr {s : State} (direction : bit s.pia.a.cr 2 = false) :
    s.piaReadRaw .dataA = (s.pia.a.ddr, s) := by
  simp [State.piaReadRaw, direction]

theorem piaReadRaw_dataB_port {s : State} (port : bit s.pia.b.cr 2 = true) :
    s.piaReadRaw .dataB = (s.portBRead.1, s.updSection .b PiaSection.clearFlags) :=
  if_pos port

theorem piaReadRaw_dataB_ddr {s : State} (direction : bit s.pia.b.cr 2 = false) :
    s.piaReadRaw .dataB = (s.pia.b.ddr, s) := by
  simp [State.piaReadRaw, direction]

/-! The accesses with the outputs re-evaluated. -/

theorem noteLine_pia (old s : State) : (State.noteLine old s).pia = s.pia := by
  unfold State.noteLine
  split <;> rfl

theorem noteLine_pinEvents (old s : State) : (State.noteLine old s).pinEvents = s.pinEvents := by
  unfold State.noteLine
  split <;> rfl

theorem latchNmi_pinEvents (old s : State) : (State.latchNmi old s).pinEvents = s.pinEvents := by
  unfold State.latchNmi
  split <;> rfl

theorem latchNmi_self (s : State) : State.latchNmi s s = s := by
  simp [State.latchNmi]

theorem noteLine_self (s : State) : State.noteLine s s = s := if_pos rfl

theorem piaRead_pia (r : PiaReg) (s : State) : (s.piaRead r).2.pia = (s.piaReadRaw r).2.pia :=
  (noteLine_pia _ _).trans (latchNmi_pia _ _)

theorem piaRead_pinEvents (r : PiaReg) (s : State) :
    (s.piaRead r).2.pinEvents = (s.piaReadRaw r).2.pinEvents :=
  (noteLine_pinEvents _ _).trans (latchNmi_pinEvents _ _)

/-- A read that only shows a register changes no output, so nothing at all. -/
theorem piaRead_of_raw_same {r : PiaReg} {v : Byte} {s : State} (h : s.piaReadRaw r = (v, s)) :
    s.piaRead r = (v, s) := by
  simp [State.piaRead, h, latchNmi_self, noteLine_self]

theorem piaWrite_eq {s : State} (h : s.piaInReset = false) (r : PiaReg) (v : Byte) :
    s.piaWrite r v = State.noteLine s (State.latchNmi s (s.piaWriteRaw r v)) := by
  simp [State.piaWrite, h]

theorem piaWrite_pia {s : State} (h : s.piaInReset = false) (r : PiaReg) (v : Byte) :
    (s.piaWrite r v).pia = (s.piaWriteRaw r v).pia := by
  rw [piaWrite_eq h, noteLine_pia, latchNmi_pia]

theorem piaWrite_pinEvents {s : State} (h : s.piaInReset = false) (r : PiaReg) (v : Byte) :
    (s.piaWrite r v).pinEvents = (s.piaWriteRaw r v).pinEvents := by
  rw [piaWrite_eq h, noteLine_pinEvents, latchNmi_pinEvents]

/-! Reads and writes, register by register. -/

theorem piaRead_dataA_pia {s : State} (port : bit s.pia.a.cr 2 = true) :
    (s.piaRead .dataA).2.pia = s.pia.upd .a fun q => q.clearFlags.afterStrobe := by
  rw [piaRead_pia, piaReadRaw_dataA_port port, strobeC2_pia, updSection_pia, upd_upd, (portARead_same s).2.1]

theorem piaRead_dataA_pinEvents {s : State} (port : bit s.pia.a.cr 2 = true) :
    (s.piaRead .dataA).2.pinEvents = s.pinEvents ++ (strobeLevels (c2Mode s.pia.a.cr)).map (PinEvent.mk .a) := by
  obtain ⟨out, k, read, -⟩ := portARead_eq s
  rw [piaRead_pinEvents, piaReadRaw_dataA_port port, strobeC2_pinEvents, updSection_pinEvents, updSection_pia,
    section_upd, read]
  exact congrArg (fun m => s.pinEvents ++ (strobeLevels m).map (PinEvent.mk .a)) (c2Mode_clear s.pia.a.cr)

/-- A read of port A drives what its mode strobes (62_pia_r6520.md R322). -/
theorem piaRead_dataA_strobes {s : State} (port : bit s.pia.a.cr 2 = true) :
    (s.piaRead .dataA).2.pia.a.c2Out = (strobeLevels (c2Mode s.pia.a.cr)).getLastD s.pia.a.c2Out ∧
      (s.piaRead .dataA).2.pinEvents = s.pinEvents ++ (strobeLevels (c2Mode s.pia.a.cr)).map (PinEvent.mk .a) := by
  refine ⟨?_, piaRead_dataA_pinEvents port⟩
  rw [piaRead_dataA_pia port, ← c2Mode_clear]
  rfl

theorem piaRead_dataA_ddr {s : State} (direction : bit s.pia.a.cr 2 = false) :
    s.piaRead .dataA = (s.pia.a.ddr, s) := piaRead_of_raw_same (piaReadRaw_dataA_ddr direction)

theorem piaRead_dataB_pia {s : State} (port : bit s.pia.b.cr 2 = true) :
    (s.piaRead .dataB).2.pia = s.pia.upd .b PiaSection.clearFlags := by
  rw [piaRead_pia, piaReadRaw_dataB_port port, updSection_pia]

theorem piaRead_dataB_pinEvents {s : State} (port : bit s.pia.b.cr 2 = true) :
    (s.piaRead .dataB).2.pinEvents = s.pinEvents := by
  rw [piaRead_pinEvents, piaReadRaw_dataB_port port, updSection_pinEvents]

theorem piaRead_dataB_ddr {s : State} (direction : bit s.pia.b.cr 2 = false) :
    s.piaRead .dataB = (s.pia.b.ddr, s) := piaRead_of_raw_same (piaReadRaw_dataB_ddr direction)

theorem piaRead_controlA (s : State) : s.piaRead .controlA = (s.pia.a.shownCr, s) := piaRead_of_raw_same rfl

theorem piaRead_controlB (s : State) : s.piaRead .controlB = (s.pia.b.shownCr, s) := piaRead_of_raw_same rfl

/-- A write of ORB also drives CB2 (62_pia_r6520.md R326). -/
def PiaSection.afterDataB (v : Byte) (q : PiaSection) : PiaSection :=
  if bit q.cr 2 then (q.afterData v).afterStrobe else q.afterData v

theorem afterDataB_of_port {v : Byte} {q : PiaSection} (port : bit q.cr 2 = true) :
    q.afterDataB v = (q.afterData v).afterStrobe := if_pos port

/-- But for the level of CB2 a write of port B is one of port A. -/
theorem afterDataB_eq (v : Byte) (q : PiaSection) :
    q.afterDataB v = { q.afterData v with c2Out := (q.afterDataB v).c2Out } := by
  unfold PiaSection.afterDataB
  split <;> rfl

section Writes

variable {s : State} (h : s.piaInReset = false) (v : Byte)
include h

theorem piaWrite_dataA_pia :
    (s.piaWrite .dataA v).pia = { s.pia with a := s.pia.a.afterData v, dir := v } := by
  rw [piaWrite_pia h]
  exact writeData_pia .a v _

theorem piaWrite_dataA_pinEvents : (s.piaWrite .dataA v).pinEvents = s.pinEvents := by
  rw [piaWrite_pinEvents h]
  exact writeData_pinEvents .a v _

theorem piaWrite_dataB_pia :
    (s.piaWrite .dataB v).pia = { s.pia with b := s.pia.b.afterDataB v, dir := v } := by
  rw [piaWrite_pia h]
  simp only [State.piaWriteRaw, PiaSection.afterDataB]
  split
  next => rw [strobeC2_pia, writeData_pia, upd_upd]; rfl
  next => rw [writeData_pia]; rfl

theorem piaWrite_dataB_pinEvents : (s.piaWrite .dataB v).pinEvents =
    if bit s.pia.b.cr 2 then s.pinEvents ++ (strobeLevels (c2Mode s.pia.b.cr)).map (PinEvent.mk .b)
    else s.pinEvents := by
  rw [piaWrite_pinEvents h]
  simp only [State.piaWriteRaw]
  split
  next => rw [strobeC2_pinEvents, writeData_pinEvents, writeData_pia, section_upd, afterData_cr]; rfl
  next => rw [writeData_pinEvents]

/-- A write of ORB drives what its mode strobes (62_pia_r6520.md R326). -/
theorem piaWrite_dataB_strobes (port : bit s.pia.b.cr 2 = true) :
    (s.piaWrite .dataB v).pia.b.c2Out = (strobeLevels (c2Mode s.pia.b.cr)).getLastD s.pia.b.c2Out ∧
      (s.piaWrite .dataB v).pinEvents = s.pinEvents ++ (strobeLevels (c2Mode s.pia.b.cr)).map (PinEvent.mk .b) := by
  rw [piaWrite_dataB_pinEvents h, if_pos port, piaWrite_dataB_pia h, afterDataB_of_port port]
  simp [PiaSection.afterStrobe]

/-- A write of DDRB drives nothing. -/
theorem piaWrite_dataB_ddr (direction : bit s.pia.b.cr 2 = false) :
    (s.piaWrite .dataB v).pia.b.c2Out = s.pia.b.c2Out ∧ (s.piaWrite .dataB v).pinEvents = s.pinEvents := by
  rw [piaWrite_dataB_pinEvents h, piaWrite_dataB_pia h]
  simp [PiaSection.afterDataB, direction]

theorem piaWrite_controlA_pia :
    ∃ free, (s.piaWrite .controlA v).pia = { s.pia with a := s.pia.a.afterControl v free, dir := v } := by
  rw [piaWrite_pia h]
  exact writeControl_pia .a v _

theorem piaWrite_controlB_pia :
    ∃ free, (s.piaWrite .controlB v).pia = { s.pia with b := s.pia.b.afterControl v free, dir := v } := by
  rw [piaWrite_pia h]
  exact writeControl_pia .b v _

theorem piaWrite_dir (r : PiaReg) : (s.piaWrite r v).pia.dir = v := by
  cases r with
  | dataA => rw [piaWrite_dataA_pia h]
  | dataB => rw [piaWrite_dataB_pia h]
  | controlA =>
    obtain ⟨_, e⟩ := piaWrite_controlA_pia h v
    rw [e]
  | controlB =>
    obtain ⟨_, e⟩ := piaWrite_controlB_pia h v
    rw [e]

end Writes

end Machine
end Sys2Proof
end

section
/-! SUPPORT. The interrupt outputs and the edge detectors of the PIA, and what an edge of CA1 leads the CPU to
(62_pia_r6520.md R312, R318, R331, R335; 60_exceptions.md R262, R271). -/

namespace Sys2Proof.Machine

open Claims

/-! The interrupt outputs. -/

theorem irqLow_afterControl (v : Byte) (free : Level) (q : PiaSection) :
    (q.afterControl v free).irqLow = ((bit q.cr 7 && bit v 0) || (bit q.cr 6 && bit v 3 && !bit v 5)) := by
  simp only [PiaSection.irqLow, PiaSection.afterControl, crAfterWrite_bit7, crAfterWrite_bit6,
    crAfterWrite_bit q.cr v 0 (by decide), crAfterWrite_bit q.cr v 3 (by decide)]
  rw [Bool.and_right_comm (bit q.cr 6)]

theorem irqAsserted_of_routes {s : State} (ra : s.platform.irqaRoute = .irq) (rb : s.platform.irqbRoute = .irq)
    (quiet : s.extIrq = false) : s.irqAsserted = (s.pia.a.irqLow || s.pia.b.irqLow) := by
  simp [State.irqAsserted, ra, rb, quiet]

/-! The edge detectors. -/

/-- The claims' words for an active transition (62_pia_r6520.md R312, R318). -/
theorem activeEdge_iff (positive : Bool) (prev now : Level) :
    activeEdge positive prev now = true ↔
      if positive then prev = .low ∧ now = .high else prev = .high ∧ now = .low := by
  cases positive <;> simp [activeEdge]

/-- A change of C1 at the edge detector (62_pia_r6520.md R335). -/
def PiaSection.afterC1 (l : Level) (q : PiaSection) : PiaSection :=
  if activeEdge (bit q.cr 1) q.c1 l then
    { q with
      c1 := l
      cr := q.cr ||| 0x80#8
      c2Out := if c2Mode q.cr = .handshake then .high else q.c2Out }
  else { q with c1 := l }

theorem afterC1_of_active {l : Level} {q : PiaSection} (h : activeEdge (bit q.cr 1) q.c1 l = true) :
    q.afterC1 l = { q with
      c1 := l, cr := q.cr ||| 0x80#8, c2Out := if c2Mode q.cr = .handshake then .high else q.c2Out } := if_pos h

theorem afterC1_of_inactive {l : Level} {q : PiaSection} (h : ¬ activeEdge (bit q.cr 1) q.c1 l = true) :
    q.afterC1 l = { q with c1 := l } := if_neg h

theorem changeC1_pia (side : Side) (l : Level) (s : State) :
    (s.changeC1 side l).pia = s.pia.upd side (PiaSection.afterC1 l) := by
  unfold State.changeC1
  dsimp only
  split
  next active =>
    split
    next raised =>
      simp only [driveC2_pia, updSection_pia, upd_upd]
      exact upd_congr (by simp [PiaSection.afterC1, active, raised])
    next =>
      simp only [updSection_pia, upd_upd]
      exact upd_congr (by simp [PiaSection.afterC1, *])
  next inactive =>
    rw [updSection_pia]
    exact upd_congr (afterC1_of_inactive inactive).symm

/-- A change of C2 as an input at the edge detector (62_pia_r6520.md R335). -/
def PiaSection.afterC2 (l : Level) (q : PiaSection) : PiaSection :=
  if activeEdge (bit q.cr 4) q.c2 l then { q with c2 := l, cr := q.cr ||| 0x40#8 } else { q with c2 := l }

theorem afterC2_of_active {l : Level} {q : PiaSection} (h : activeEdge (bit q.cr 4) q.c2 l = true) :
    q.afterC2 l = { q with c2 := l, cr := q.cr ||| 0x40#8 } := if_pos h

theorem afterC2_of_inactive {l : Level} {q : PiaSection} (h : ¬ activeEdge (bit q.cr 4) q.c2 l = true) :
    q.afterC2 l = { q with c2 := l } := if_neg h

theorem changeC2_pia {side : Side} {s : State} (input : bit (s.pia.section side).cr 5 = false) (l : Level) :
    (s.changeC2 side l).pia = s.pia.upd side (PiaSection.afterC2 l) := by
  unfold State.changeC2
  rw [if_neg (by simp [input])]
  dsimp only
  split
  next active =>
    simp only [updSection_pia, upd_upd]
    exact upd_congr (afterC2_of_active active).symm
  next inactive =>
    rw [updSection_pia]
    exact upd_congr (afterC2_of_inactive inactive).symm

theorem changeC1_piaInReset (side : Side) (l : Level) (s : State) :
    (s.changeC1 side l).piaInReset = s.piaInReset := by
  unfold State.changeC1
  dsimp only
  split
  · split <;> simp
  · simp

theorem changeC2_piaInReset (side : Side) (l : Level) (s : State) :
    (s.changeC2 side l).piaInReset = s.piaInReset := by
  unfold State.changeC2
  dsimp only
  split
  · rfl
  · split <;> simp

theorem holdPia_of_running {s : State} (h : s.piaInReset = false) : s.holdPia = s := by
  simp [State.holdPia, h]

theorem applyEnv_c1_pia {s : State} (h : s.piaInReset = false) (side : Side) (l : Level) :
    (applyEnv (.c1 side l) s).pia = s.pia.upd side (PiaSection.afterC1 l) := by
  rw [applyEnv, latchNmi_pia, applyEnvRaw, holdPia_of_running ((changeC1_piaInReset side l s).trans h), changeC1_pia]

theorem applyEnv_c2_pia {s : State} (h : s.piaInReset = false) {side : Side}
    (input : bit (s.pia.section side).cr 5 = false) (l : Level) :
    (applyEnv (.c2 side l) s).pia = s.pia.upd side (PiaSection.afterC2 l) := by
  rw [applyEnv, latchNmi_pia, applyEnvRaw, holdPia_of_running ((changeC2_piaInReset side l s).trans h),
    changeC2_pia input]

/-! An edge of C1 as a move of the environment. -/

theorem step_of_env {s : State} {e : EnvEvent} {rest : List Action} (h : s.agenda = .env e :: rest) :
    step s = .next (applyEnv e { s.clearTrace with agenda := rest }) := by
  rw [step, takeTurn, h]
  rfl

theorem applyEnv_c1_piaOnly (side : Side) (l : Level) (s : State) : PiaOnly s (applyEnv (.c1 side l) s) :=
  ((changeC1_piaOnly side l s).trans (holdPia_piaOnly _)).trans (latchNmi_piaOnly s _)

@[simp] theorem updSection_slackLine (side : Side) (f : PiaSection → PiaSection) (s : State) :
    (s.updSection side f).slackLine = s.slackLine := by
  cases side <;> rfl

@[simp] theorem driveC2_slackLine (side : Side) (l : Level) (s : State) :
    (s.driveC2 side l).slackLine = s.slackLine := updSection_slackLine side _ s

theorem changeC1_slackLine (side : Side) (l : Level) (s : State) :
    (s.changeC1 side l).slackLine = s.slackLine := by
  unfold State.changeC1
  dsimp only
  split
  · split <;> simp
  · simp

/-- Only an access of the CPU leaves slack in irq_line (60_exceptions.md R264). -/
theorem applyEnv_c1_slackLine {s : State} (h : s.piaInReset = false) (side : Side) (l : Level) :
    (applyEnv (.c1 side l) s).slackLine = s.slackLine := by
  rw [applyEnv, applyEnvRaw, holdPia_of_running ((changeC1_piaInReset side l s).trans h), State.latchNmi]
  split <;> exact changeC1_slackLine side l s

/-- A port A that is not routed to NMI moves nmi_line by no edge of its own. -/
theorem applyEnv_c1_nmiPending {s : State} (h : s.piaInReset = false) (route : s.platform.irqaRoute = .irq)
    (l : Level) : (applyEnv (.c1 .a l) s).nmiPending = s.nmiPending := by
  have keep := applyEnv_c1_piaOnly .a l s
  have line : (applyEnv (.c1 .a l) s).nmiLow = s.nmiLow := by
    simp [State.nmiLow, applyEnv_c1_pia h, Pia.upd, keep.platform, keep.extNmi, route]
  rw [applyEnv_latched, line]
  simp

/-- The active transition of an enabled C1 takes the interrupt output low (62_pia_r6520.md R331). -/
theorem irqLow_afterC1 {l : Level} {q : PiaSection} (active : activeEdge (bit q.cr 1) q.c1 l = true)
    (enabled : bit q.cr 0 = true) : (q.afterC1 l).irqLow = true := by
  have flag : bit (q.cr ||| 0x80#8) 7 = true := by
    rw [bit_or]
    exact Bool.or_true _
  have enable : bit (q.cr ||| 0x80#8) 0 = true := by rw [bit_or, enabled, Bool.true_or]
  rw [afterC1_of_active active, PiaSection.irqLow, flag, enable]
  rfl

theorem irqAsserted_of_portA {s : State} (route : s.platform.irqaRoute = .irq) (low : s.pia.a.irqLow = true) :
    s.irqAsserted = true := by
  simp [State.irqAsserted, route, low]

/-- The active transition of an enabled CA1 routed to IRQ makes an IRQ due and nothing else. -/
theorem irqDue_of_c1_edge {s : State} {l : Level} (running : s.piaInReset = false) (slack : NoSlack s)
    (route : s.platform.irqaRoute = .irq) (active : activeEdge (bit s.pia.a.cr 1) s.pia.a.c1 l = true)
    (enabled : bit s.pia.a.cr 0 = true) :
    NoSlack (applyEnv (.c1 .a l) s) ∧ (applyEnv (.c1 .a l) s).nmiPending = s.nmiPending ∧
      (applyEnv (.c1 .a l) s).irqAsserted = true := by
  have keep := applyEnv_c1_piaOnly .a l s
  refine ⟨⟨keep.slackI.trans slack.1, (applyEnv_c1_slackLine running .a l).trans slack.2⟩,
    applyEnv_c1_nmiPending running route l, irqAsserted_of_portA (keep.platform ▸ route) ?_⟩
  rw [applyEnv_c1_pia running]
  exact irqLow_afterC1 active enabled

/-- An IRQ that is due is entered as any trap on a RAM stack (60_exceptions.md R270, R271). -/
theorem step_irq_ram {s : State} (ready : CpuReady s) (slack : NoSlack s) (noNmi : s.nmiPending = false)
    (asserted : s.irqAsserted = true) (unmasked : s.p.i = false) (h : NoDma s) (stack : StackRam s)
    (vector : VectorMemory s 0xFFFE#16) :
    step s = .next (trapState s.clearTrace 0xFFFE#16 s.pc false) := by
  obtain ⟨-, irq, -⟩ := Proofs.boundaryTakesNmiThenIrqThenInstruction s ready slack
  exact (irq noNmi asserted unmasked).trans (takeTrap_ram (s := s.clearTrace) h stack vector (by decide))

end Sys2Proof.Machine
end

section
/-! The statements about the PIA (62_pia_r6520.md). -/

namespace Sys2Proof.Proofs

open Sys2Proof.Machine Sys2Proof.Claims

/-- Settles O50: the select lines count up from the base, and the PIA answers before the map does. -/
theorem defaultWiringSelectsFourAddresses : Obligations.DefaultWiringSelectsFourAddresses := by
  intro p base a hbase h0 h1
  obtain ⟨d, rfl⟩ : ∃ d, a = base + d := ⟨a - base, by bv_omega⟩
  have offset : base + d - base = d := by bv_omega
  have near : d.toNat < 4 ↔ d = 0#16 ∨ d = 1#16 ∨ d = 2#16 ∨ d = 3#16 := by bv_omega
  have first : base + d = base ↔ d = 0#16 := add_eq_left
  simp only [target_eq_pia_iff, Platform.isPia, piaSelect_default hbase h0 h1, first, add_right_inj, offset, near]
  by_cases d0 : d = 0#16
  · simp [d0]
  by_cases d1 : d = 1#16
  · simp [d1]
  by_cases d2 : d = 2#16
  · simp [d2]
  by_cases d3 : d = 3#16
  · simp [d3]
  · simp [d0, d1, d2, d3]

/-- Settles O51: a write is a function of the section it reaches, and leaves the other one alone. -/
theorem piaWritesReachTheSelectedRegister : Obligations.PiaWritesReachTheSelectedRegister := by
  intro s v h
  obtain ⟨freeA, controlA⟩ := piaWrite_controlA_pia h v
  obtain ⟨freeB, controlB⟩ := piaWrite_controlB_pia h v
  rw [piaWrite_dataA_pia h, piaWrite_dataB_pia h, controlA, controlB]
  refine ⟨afterData_outReg v _, afterData_ddr v _, afterData_cr v _, rfl, ?_, ?_, ?_, rfl,
    fun k low => ⟨crAfterWrite_bit _ v k low, crAfterWrite_bit _ v k low⟩, crAfterWrite_bit7 _ v,
    crAfterWrite_bit7 _ v, crAfterWrite_bit6 _ v, crAfterWrite_bit6 _ v, piaWrite_dir h v,
    c2Follows_afterControl _ v freeA, c2Follows_afterControl _ v freeB⟩
  all_goals dsimp only; rw [afterDataB_eq]
  · exact afterData_outReg v _
  · exact afterData_ddr v _
  · exact afterData_cr v _

/-- Settles O52: a port shows its lines bit by bit and clears its flags; the other reads change no output. -/
theorem portReadsShowPinsAndOutputs : Obligations.PortReadsShowPinsAndOutputs := by
  intro s
  refine ⟨fun port => ?portA, fun port => ?portB, fun direction => ?ddrA, fun direction => ?ddrB, ?control,
    fun k low => ?shown⟩
  case portA =>
    obtain ⟨out, _, read, readback⟩ := portARead_eq s
    have shown : (s.piaRead .dataA).1 = (s.pia.a.pins &&& ~~~s.pia.a.ddr) ||| (out &&& s.pia.a.ddr) := by
      rw [State.piaRead, piaReadRaw_dataA_port port, read]
    rw [shown, piaRead_dataA_pia port]
    refine ⟨fun k low input => ?_, fun ora k low output => ?_, rfl, irqLow_clearFlags s.pia.a⟩
    · rw [bit_lines _ _ _ low, input]
      rfl
    · rw [bit_lines _ _ _ low, output, readback ora]
      rfl
  case portB =>
    have shown : (s.piaRead .dataB).1 = s.portBRead.1 := by rw [State.piaRead, piaReadRaw_dataB_port port]
    rw [shown, piaRead_dataB_pia port]
    exact ⟨fun k low => bit_lines _ _ _ low, rfl, irqLow_clearFlags s.pia.b, rfl⟩
  case ddrA =>
    rw [piaRead_dataA_ddr direction]
    exact ⟨rfl, rfl⟩
  case ddrB =>
    rw [piaRead_dataB_ddr direction]
    exact ⟨rfl, rfl⟩
  case control =>
    rw [piaRead_controlA, piaRead_controlB]
    exact ⟨rfl, rfl⟩
  case shown =>
    rw [piaRead_controlA, piaRead_controlB]
    exact ⟨bit_shownCr _ low, bit_shownCr _ low⟩

/-- Settles O53: the detectors' own case split is the transition the claim names. -/
theorem edgeDetectorsSetFlagsOnActiveTransitions : Obligations.EdgeDetectorsSetFlagsOnActiveTransitions := by
  intro s side now h q active
  have edge : ∀ positive prev, active positive prev ↔ activeEdge positive prev now = true :=
    fun positive prev => (activeEdge_iff positive prev now).symm
  simp only [edge, crBit]
  refine ⟨?c1, fun input => ?c2⟩
  case c1 =>
    rw [applyEnv_c1_pia h, section_upd]
    by_cases fired : activeEdge (bit q.cr 1) q.c1 now = true
    · rw [afterC1_of_active fired]
      exact ⟨rfl, fun _ => ⟨rfl, rfl⟩, fun quiet => absurd fired quiet⟩
    · rw [afterC1_of_inactive fired]
      exact ⟨rfl, fun active => absurd active fired, fun _ => ⟨rfl, rfl⟩⟩
  case c2 =>
    rw [applyEnv_c2_pia h input, section_upd]
    by_cases fired : activeEdge (bit q.cr 4) q.c2 now = true
    · rw [afterC2_of_active fired]
      exact ⟨rfl, fun _ => rfl, fun quiet => absurd fired quiet⟩
    · rw [afterC2_of_inactive fired]
      exact ⟨rfl, fun active => absurd active fired, fun _ => rfl⟩

/-- Settles O54: what an access drives on C2 is the strobe of its mode. -/
theorem dataAccessesDriveHandshakeAndPulse : Obligations.DataAccessesDriveHandshakeAndPulse := by
  intro s v h
  refine ⟨fun port mode => ?readHandshake, fun port mode => ?readPulse, fun port mode => ?writeHandshake,
    fun port mode => ?writePulse, fun idle => ?readIdle, fun idle => ?writeIdle, ?writeA, ?readB⟩
  case readHandshake | readPulse => simpa [mode, strobeLevels] using piaRead_dataA_strobes port
  case writeHandshake | writePulse => simpa [mode, strobeLevels] using piaWrite_dataB_strobes h v port
  case readIdle =>
    cases port : crBit s.pia.a 2 with
    | false => simp [piaRead_dataA_ddr port]
    | true =>
      have mode := idle.resolve_left (by simp [port])
      simpa [strobeLevels_of_idle mode] using piaRead_dataA_strobes port
  case writeIdle =>
    cases port : crBit s.pia.b 2 with
    | false => exact piaWrite_dataB_ddr h v port
    | true =>
      have mode := idle.resolve_left (by simp [port])
      simpa [strobeLevels_of_idle mode] using piaWrite_dataB_strobes h v port
  case writeA =>
    rw [piaWrite_dataA_pia h, piaWrite_dataA_pinEvents h]
    exact ⟨afterData_c2Out v _, rfl⟩
  case readB =>
    cases port : bit s.pia.b.cr 2 with
    | false => simp [piaRead_dataB_ddr port]
    | true =>
      rw [piaRead_dataB_pia port, piaRead_dataB_pinEvents port]
      exact ⟨rfl, rfl⟩

/-- Settles O55: a control write leaves the other section alone, and its own output follows from the bits it leaves. -/
theorem interruptOutputsFollowFlagsAndEnables : Obligations.InterruptOutputsFollowFlagsAndEnables := by
  intro s v h routeA routeB quiet
  have same := fun r => piaWrite_piaOnly r v s
  have line : ∀ r, (s.piaWrite r v).irqAsserted = ((s.piaWrite r v).pia.a.irqLow || (s.piaWrite r v).pia.b.irqLow) :=
    fun r => irqAsserted_of_routes ((congrArg Platform.irqaRoute (same r).platform).trans routeA)
      ((congrArg Platform.irqbRoute (same r).platform).trans routeB) ((same r).extIrq.trans quiet)
  obtain ⟨_, controlA⟩ := piaWrite_controlA_pia h v
  obtain ⟨_, controlB⟩ := piaWrite_controlB_pia h v
  rw [line, line, controlA, controlB]
  dsimp only
  rw [irqLow_afterControl, irqLow_afterControl]
  exact ⟨(Bool.or_assoc _ _ _).symm, (Bool.or_assoc _ _ _).symm⟩

/-- Settles O56: the edge sets the enabled flag and moves no other line, so the boundary that follows selects the IRQ,
whose entry runs as on any RAM stack. -/
theorem ca1EdgeInterruptsTheCpu : Obligations.Ca1EdgeInterruptsTheCpu := by
  intro s prev now agenda high noReset running slack noNmi route unmasked level enabled active absent stack vector
  rw [← level] at active
  obtain ⟨quiet, sameNmi, asserted⟩ := irqDue_of_c1_edge (s := { s.clearTrace with agenda := [] }) running slack route
    ((activeEdge_iff _ _ _).2 active) enabled
  have keep := applyEnv_c1_piaOnly .a now { s.clearTrace with agenda := [] }
  have moved := step_of_env agenda
  generalize applyEnv (.c1 .a now) { s.clearTrace with agenda := [] } = t at quiet sameNmi asserted keep moved
  have platform : t.platform = s.platform := keep.platform
  have sp : t.sp = s.sp := keep.sp
  have p : t.p = s.p := keep.p
  have peek : t.peek = s.peek := funext (peek_congr keep.mem)
  have ready : CpuReady t := ⟨keep.agenda, keep.resLine.trans high, keep.resetPending.trans noReset⟩
  have entered := step_irq_ram ready quiet (sameNmi.trans noNmi) asserted (p ▸ unmasked) (keep.dmaTurns.trans absent)
    (by rwa [StackRam, IsRam, IsRam, IsRam, platform, sp]) (by rwa [VectorMemory, IsMemory, IsMemory, platform])
  obtain ⟨-, -, status⟩ := trapState_peek_stack t.clearTrace 0xFFFE#16 t.pc false
  refine ⟨t, _, moved, entered, ?_, rfl, congrArg (· - 3#8) sp, ?_, keep.a, keep.x, keep.y⟩
  · rw [← peek]
    rfl
  · rw [← sp, ← p, ← image_eq_flagByte]
    exact status

end Sys2Proof.Proofs
end

section
/-! SUPPORT. The rules of the reset sequence (70_reset_and_hazards.md R350): registers are set, the word at the reset
vector is read, and PC is that word. -/

namespace Sys2Proof.Machine

open Claims

/-! Reading a word. -/

theorem readWord_noWrite (a : Word) (s : State) (h : NoWrite s) : NoWrite (readWord a s).2 :=
  readAt_noWrite _ _ (readAt_noWrite a s h)

theorem readWord_sameDevice {a : Word} {s : State} (off : OffPia s [a, a + 1#16]) :
    SameDevice s (readWord a s).2 :=
  (readWord_accesses a s).sameDevice fun o ho => off o.addr (List.mem_map_of_mem (f := BusOp.addr) ho)

/-! What the sequence leaves. Its free registers are no part of these. -/

theorem resetSequence_flags (s : State) : (resetSequence s).p.i = true ∧ (resetSequence s).p.d = false :=
  ⟨congrArg Flags.i (readWord_sameCpu resetVector _).p, congrArg Flags.d (readWord_sameCpu resetVector _).p⟩

theorem resetSequence_resetPending (s : State) : (resetSequence s).resetPending = false :=
  (readWord_sameCpu resetVector _).resetPending

/-- A read on the PIA could set the latch again. -/
theorem resetSequence_nmiPending {s : State} (off : OffPia s [resetVector, resetVector + 1#16]) :
    (resetSequence s).nmiPending = false :=
  (readWord_sameDevice (by exact off)).nmiPending

theorem resetSequence_noWrite {s : State} (h : NoWrite s) : NoWrite (resetSequence s) :=
  readWord_noWrite resetVector _ h

theorem resetSequence_mem {s : State} (h : NoDma s) : (resetSequence s).mem = s.mem :=
  (readWord_mem (by exact h)).1

theorem resetSequence_pc {s : State} (h : NoDma s) (vector : VectorMemory s resetVector) :
    (resetSequence s).pc = wordOf (s.peek (resetVector + 1#16)) (s.peek resetVector) :=
  congrArg Prod.fst (readWord_memory (by exact h) (by exact vector.1) (by exact vector.2))

/-! The sequence as a step. -/

theorem takeReset_offPia {s : State} (off : OffPia s [resetVector, resetVector + 1#16]) :
    takeReset s = .next (resetSequence s) := guarded_of_off off

/-- With RES high and a reset due, the CPU step is the reset sequence (60_exceptions.md R281). -/
theorem step_of_resetPending {s : State} (agenda : s.agenda = []) (high : s.resLine = .high)
    (due : s.resetPending = true) : step s = takeReset s.clearTrace := by
  rw [step_of_agenda_nil agenda]
  simp [cpuStep, high, due]

end Sys2Proof.Machine
end

section
/-! The statements about reset and the environment's hazards (70_reset_and_hazards.md). -/

namespace Sys2Proof.Proofs

open Sys2Proof.Machine Sys2Proof.Claims

/-- Settles O13: the step starts from an empty trace, sets the registers and reads its vector, which lies off the PIA. -/
theorem resetSequenceSetsIAndLoadsVector : Obligations.ResetSequenceSetsIAndLoadsVector := by
  intro s agenda high due off
  obtain ⟨i, d⟩ := resetSequence_flags s.clearTrace
  have empty : NoWrite s.clearTrace := nofun
  exact ⟨_, (step_of_resetPending agenda high due).trans (takeReset_offPia (s := s.clearTrace) off), i, d,
    resetSequence_nmiPending (s := s.clearTrace) off, resetSequence_resetPending _, resetSequence_noWrite empty,
    fun absent => ⟨resetSequence_mem (s := s.clearTrace) absent,
      fun vector => resetSequence_pc (s := s.clearTrace) absent vector⟩⟩

end Sys2Proof.Proofs
end
